-- ==== Sys2Proof/Word.lean ====
section
/-!
DEFINITION. The widths of 00_scope R9 and 30_encoding R70 and R75, as names. Every value is unsigned (R9).
-/
namespace Sys2Proof

/-- One link transfer, one table entry, one operand `A` (R9). -/
abbrev Byte := BitVec 8

/-- A command argument, the operand `B` (R9, R70). -/
abbrev Word32 := BitVec 32

/-- An SD command index (R9). -/
abbrev CommandIndex := BitVec 6

/-- A CRC-7 value (R9). -/
abbrev Crc7 := BitVec 7

/-- A host request word, or the six bytes of an SD frame read as one big-endian number (30_encoding, introduction). -/
abbrev Word48 := BitVec 48

/-- A response word (R75). -/
abbrev ResponseWord := BitVec 16

end Sys2Proof
end

