-- ==== Sys2Proof/Config.lean ====
section
/-!
DEFINITION. What is fixed for the machine. The constants of 00_scope R7 have the values the rule lists ("A model takes each one as a
configuration constant with the value shown"). What the spec leaves open (R8, R53) is an opaque constant with no body, or,
for N_SETTLE, the spec's own value (entry 10).
-/
namespace Sys2Proof

/-- A link event (20_memory R54): the block's observable behaviour towards the card. Declared here because the card oracle
below depends on the history of them. -/
inductive LinkEvent where
  /-- A select, also when the card was selected already (R54). -/
  | sel
  /-- A deselect, also when the card was released already (R54). -/
  | desel
  /-- One exchange: `cs` during it, the byte driven out and the byte received (R54). -/
  | xfer (cs : Bool) (out received : Byte)
deriving DecidableEq, Repr

end Sys2Proof

namespace Sys2Proof.Config

/-- RESP_POLL_LIMIT (R7). -/
def respPollLimit : Nat := 10

/-- TOKEN_POLL_LIMIT (R7). -/
def tokenPollLimit : Nat := 100

/-- IDLE_RETRY_LIMIT (R7). -/
def idleRetryLimit : Nat := 16

/-- INIT_LOOP_LIMIT (R7). -/
def initLoopLimit : Nat := 20000

/-- BUSY_POLL_LIMIT (R7). -/
def busyPollLimit : Nat := 65535

/-- BLOCK_LEN (R7). -/
def blockLen : Nat := 512

/-- PASSWORD_MAX (R7); an abbreviation, because types name it. -/
abbrev passwordMax : Nat := 16

/-- CRC_POLY (R7), with its x^7 term as bit 7. -/
def crcPoly : Byte := 0x89#8

/-- START_TOKEN (R7). -/
def startToken : Byte := 0xFE#8

/-- IF_COND_PATTERN (R7). -/
def ifCondPattern : Word32 := 0x000001AA#32

/-- HCS_ARG (R7). -/
def hcsArg : Word32 := 0x40000000#32

/-- FILL (R7): the byte driven on the link when the block only reads. -/
def fill : Byte := 0xFF#8

/-- N_SETTLE (R8): "This spec's value is N_SETTLE = 10". DESIGN CHOICE of the spec (D15), entry 10, unsafe: the meanings take
the count as an argument, and only the instruction INITIALIZE is given this value. -/
def nSettle : Nat := 10

/-- The card oracle of 20_memory R53, where the state lists no answer: a free value (entry 3, safe). `drawn` counts the bytes drawn so
far, and the oracle "may depend on the whole link event history" and on what the exchange drives. -/
opaque cardByte (drawn : Nat) (history : List LinkEvent) (cs : Bool) (out : Byte) : Byte

/-- The bytes of DEFAULT_PASSWORD (R8, D37), of which the first `defaultPasswordLength` count: a parameter with no value
(entry 11, safe). -/
opaque defaultPasswordBytes : Vector Byte passwordMax

/-- The length of DEFAULT_PASSWORD, 0 to PASSWORD_MAX (R8). -/
opaque defaultPasswordLength : Fin (passwordMax + 1)

end Sys2Proof.Config
end

