-- ==== Sys2Proof/Syntax.lean ====
section
/-!
DEFINITION. The instructions: one constructor per row of spec/opcode_table.json, in the table's order. The first ten are the
host requests of 30_encoding R71; the other thirteen are the SD commands of 30_encoding R80, each of which
43_sd_commands gives as one call `SendCommand(code, argument)`.
-/
namespace Sys2Proof

inductive Instr where
  /-- EXCHANGE (R100): `byte_out` = A. -/
  | exchange (byteOut : Byte)
  /-- SELECT (R101). -/
  | select
  /-- DESELECT (R102). -/
  | deselect
  /-- CRC_BUILD (R121). -/
  | crcBuild
  /-- CRC_EXTEND (R123): `crc` = B[6:0], `byte` = A. -/
  | crcExtend (crc : Crc7) (byte : Byte)
  /-- SEND_COMMAND (R140): `command` = A, `argument` = B. -/
  | sendCommand (command : Byte) (argument : Word32)
  /-- WAIT_TOKEN (R190). -/
  | waitToken
  /-- DECODE_ERROR_TOKEN (R193): `token` = A. -/
  | decodeErrorToken (token : Byte)
  /-- INITIALIZE (R210). -/
  | initializeCard
  /-- STATUS (R104). -/
  | status
  /-- GO_IDLE_STATE, CMD0 (R160). -/
  | goIdleState
  /-- SD_SEND_OP_COND legacy, CMD1 (R161). -/
  | sdSendOpCondLegacy
  /-- SEND_IF_COND, CMD8 (R162). -/
  | sendIfCond
  /-- SEND_CSD, CMD9 (R163). -/
  | sendCsd
  /-- SEND_CID, CMD10 (R164). -/
  | sendCid
  /-- SEND_STATUS, CMD13 (R165). -/
  | sendStatus
  /-- SET_BLOCKLEN, CMD16 (R166): the argument is the block length in bytes. -/
  | setBlocklen (length : Word32)
  /-- READ_SINGLE_BLOCK, CMD17 (R167): the argument is the address. -/
  | readSingleBlock (address : Word32)
  /-- PROGRAM_CSD, CMD27 (R168). -/
  | programCsd
  /-- LOCK_UNLOCK, CMD42 (R169). -/
  | lockUnlock
  /-- APP_CMD, CMD55 (R170). -/
  | appCmd
  /-- READ_OCR, CMD58 (R171). -/
  | readOcr
  /-- SD_SEND_OP_COND, ACMD41 (R172). -/
  | sdSendOpCond
deriving DecidableEq, Repr

end Sys2Proof
end

