-- ==== Sys2Proof/WellFormed.lean ====
section
/-!
DEFINITION. Well-formedness. An `Instr` is well formed by its types: the fields of 30_encoding R73 have exactly the widths of the
constructors' arguments, so an operand out of range cannot be built. The check the spec does state is on assembly lines
(30_encoding R88: "An operand that does not fit its field cannot be assembled"), whose numbers are unbounded; `AsmLine` is
that syntax and `AsmLine.wellFormed` the check.
-/
namespace Sys2Proof

/-- Every instruction is well formed: R73 assembles each operand "with no extension, scaling or sign" from a field of the
argument's own width. -/
def Instr.wellFormed (_ : Instr) : Bool := true

/-- One line of assembly: the ten mnemonics of 30_encoding R88, then the pseudo-instructions of R89. Numbers are as written. -/
inductive AsmLine where
  | xchg (b : Nat)
  | sel
  | desel
  | crcb
  | crcx (c b : Nat)
  | cmd (k a : Nat)
  | wtok
  | dtok (t : Nat)
  | init
  | stat
  | dummy
  | goIdleState
  | sendOpCond
  | sendIfCond
  | sendCsd
  | sendCid
  | sendStatus
  | setBlocklen (n : Nat)
  | readSingleBlock (a : Nat)
  | programCsd
  | lockUnlock
  | appCmd
  | readOcr
  | acmd41
deriving DecidableEq, Repr

/-- R88: "b, k or t above 0xFF, c above 0x7F, a above 0xFFFFFFFF" cannot be assembled. -/
def AsmLine.wellFormed : AsmLine → Bool
  | .xchg b => decide (b ≤ 0xFF)
  | .crcx c b => decide (c ≤ 0x7F) && decide (b ≤ 0xFF)
  | .cmd k a => decide (k ≤ 0xFF) && decide (a ≤ 0xFFFFFFFF)
  | .dtok t => decide (t ≤ 0xFF)
  | .setBlocklen n => decide (n ≤ 0xFFFFFFFF)
  | .readSingleBlock a => decide (a ≤ 0xFFFFFFFF)
  | .sel | .desel | .crcb | .wtok | .init | .stat => true
  | .dummy | .goIdleState | .sendOpCond | .sendIfCond | .sendCsd | .sendCid | .sendStatus => true
  | .programCsd | .lockUnlock | .appCmd | .readOcr | .acmd41 => true

end Sys2Proof
end

