-- ==== Sys2Proof/Decode.lean ====
section
/-!
DEFINITION. Decoding and encoding. The opcode table has two formats of 48-bit words (30_encoding, introduction): host request words
(R70, R71) and SD frames (R80), which "describe what the block emits; they are not requests". As numbers the two overlap
(entry 5), so a word is always paired with the format it is given in (entry 4): `CodedWord`. The decoder is total and rejects by name;
the encoder is written from the same tables.
-/
namespace Sys2Proof

/-- The two formats of spec/opcode_table.json. -/
inductive Format where
  /-- `host-request-48`: a request word of R70. -/
  | hostRequest
  /-- `sd-frame-48`: the six bytes of a frame of R80, read as one big-endian number. -/
  | sdFrame
deriving DecidableEq, Repr

/-- A 48-bit word and the format it is given in. -/
structure CodedWord where
  format : Format
  word : Word48
deriving DecidableEq, Repr

/-- Why a word is no instruction (R72; "a word that matches no row is illegal"). -/
inductive DecodeError where
  /-- OP is 0x0 or 0xB to 0xF (R72). -/
  | reservedOp
  /-- W[43:40] is not zero (R71). -/
  | rsvNotZero
  /-- The operand A must be zero and is not (R71). -/
  | operandANotZero
  /-- The operand B must be zero and is not; for CRC_EXTEND, B[31:7] (R71). -/
  | operandBNotZero
  /-- The six bytes are no frame of R80. -/
  | noSuchFrame
deriving DecidableEq, Repr

/-! ### The fields of a request word (R70) -/

/-- OP = W[47:44]. -/
def opField (w : Word48) : BitVec 4 := w.extractLsb' 44 4

/-- RSV = W[43:40]. -/
def rsvField (w : Word48) : BitVec 4 := w.extractLsb' 40 4

/-- A = W[39:32]. -/
def aField (w : Word48) : Byte := w.extractLsb' 32 8

/-- B = W[31:0]. -/
def bField (w : Word48) : Word32 := w.extractLsb' 0 32

/-- The must-be-zero checks of one row of R71, then its instruction. -/
def requireZero (a : Byte) (b : BitVec n) (i : Instr) : Except DecodeError Instr :=
  if a ≠ 0#8 then .error .operandANotZero
  else if b ≠ 0#n then .error .operandBNotZero
  else .ok i

/-- The host request a word stands for (R71), or why it is illegal (R72). -/
def decodeRequest (w : Word48) : Except DecodeError Instr :=
  let a := aField w
  let b := bField w
  if rsvField w ≠ 0#4 then .error .rsvNotZero
  else match opField w with
    | 0x1#4 => requireZero 0#8 b (.exchange a)
    | 0x2#4 => requireZero a b .select
    | 0x3#4 => requireZero a b .deselect
    | 0x4#4 => requireZero a b .crcBuild
    | 0x5#4 => requireZero 0#8 (b.extractLsb' 7 25) (.crcExtend (b.extractLsb' 0 7) a)
    | 0x6#4 => .ok (.sendCommand a b)
    | 0x7#4 => requireZero a b .waitToken
    | 0x8#4 => requireZero 0#8 b (.decodeErrorToken a)
    | 0x9#4 => requireZero a b .initializeCard
    | 0xA#4 => requireZero a b .status
    | _ => .error .reservedOp

/-! ### The fields of a frame (R77, R80) -/

/-- The command byte F0 = bits 47:40. -/
def frameCommand (w : Word48) : Byte := w.extractLsb' 40 8

/-- The argument F1 to F4 = bits 39:8. -/
def frameArgument (w : Word48) : Word32 := w.extractLsb' 8 32

/-- The CRC byte F5 = bits 7:0. -/
def frameCrc (w : Word48) : Byte := w.extractLsb' 0 8

/-- A frame whose argument the source fixes (R80): accepted with that argument and CRC byte only. -/
def fixedFrame (w : Word48) (argument : Word32) (crc : Byte) (i : Instr) : Except DecodeError Instr :=
  if frameArgument w = argument ∧ frameCrc w = crc then .ok i else .error .noSuchFrame

/-- A frame whose argument is the host's (R166, R167): any argument, the placeholder CRC byte. -/
def openFrame (w : Word48) (i : Word32 → Instr) : Except DecodeError Instr :=
  if frameCrc w = 0x01#8 then .ok (i (frameArgument w)) else .error .noSuchFrame

/-- The SD command whose frame (R80) the six bytes are. -/
def decodeFrame (w : Word48) : Except DecodeError Instr :=
  match frameCommand w with
  | 0x40#8 => fixedFrame w 0#32 0x95#8 .goIdleState
  | 0x41#8 => fixedFrame w 0#32 0x01#8 .sdSendOpCondLegacy
  | 0x48#8 => fixedFrame w 0x1AA#32 0x87#8 .sendIfCond
  | 0x49#8 => fixedFrame w 0#32 0x01#8 .sendCsd
  | 0x4A#8 => fixedFrame w 0#32 0x01#8 .sendCid
  | 0x4D#8 => fixedFrame w 0#32 0x01#8 .sendStatus
  | 0x50#8 => openFrame w .setBlocklen
  | 0x51#8 => openFrame w .readSingleBlock
  | 0x5B#8 => fixedFrame w 0#32 0x01#8 .programCsd
  | 0x6A#8 => fixedFrame w 0#32 0x01#8 .lockUnlock
  | 0x77#8 => fixedFrame w 0#32 0x01#8 .appCmd
  | 0x7A#8 => fixedFrame w 0#32 0x01#8 .readOcr
  | 0x69#8 => fixedFrame w 0x40000000#32 0x01#8 .sdSendOpCond
  | _ => .error .noSuchFrame

/-- The decoder: total on any word of either format. -/
def decode (t : CodedWord) : Except DecodeError Instr :=
  match t.format with
  | .hostRequest => decodeRequest t.word
  | .sdFrame => decodeFrame t.word

/-! ### The encoder -/

/-- A request word from its fields (R70), RSV zero. -/
def requestWord (op : BitVec 4) (a : Byte) (b : Word32) : CodedWord :=
  ⟨.hostRequest, op ++ 0#4 ++ a ++ b⟩

/-- A frame word from its fields (R80). -/
def frameWord (command : Byte) (argument : Word32) (crc : Byte) : CodedWord :=
  ⟨.sdFrame, command ++ argument ++ crc⟩

/-- The word of an instruction: the rows of R71, then the rows of R80. -/
def encode : Instr → CodedWord
  | .exchange byteOut => requestWord 0x1#4 byteOut 0#32
  | .select => requestWord 0x2#4 0#8 0#32
  | .deselect => requestWord 0x3#4 0#8 0#32
  | .crcBuild => requestWord 0x4#4 0#8 0#32
  | .crcExtend crc byte => requestWord 0x5#4 byte (0#25 ++ crc)
  | .sendCommand command argument => requestWord 0x6#4 command argument
  | .waitToken => requestWord 0x7#4 0#8 0#32
  | .decodeErrorToken token => requestWord 0x8#4 token 0#32
  | .initializeCard => requestWord 0x9#4 0#8 0#32
  | .status => requestWord 0xA#4 0#8 0#32
  | .goIdleState => frameWord 0x40#8 0#32 0x95#8
  | .sdSendOpCondLegacy => frameWord 0x41#8 0#32 0x01#8
  | .sendIfCond => frameWord 0x48#8 0x1AA#32 0x87#8
  | .sendCsd => frameWord 0x49#8 0#32 0x01#8
  | .sendCid => frameWord 0x4A#8 0#32 0x01#8
  | .sendStatus => frameWord 0x4D#8 0#32 0x01#8
  | .setBlocklen length => frameWord 0x50#8 length 0x01#8
  | .readSingleBlock address => frameWord 0x51#8 address 0x01#8
  | .programCsd => frameWord 0x5B#8 0#32 0x01#8
  | .lockUnlock => frameWord 0x6A#8 0#32 0x01#8
  | .appCmd => frameWord 0x77#8 0#32 0x01#8
  | .readOcr => frameWord 0x7A#8 0#32 0x01#8
  | .sdSendOpCond => frameWord 0x69#8 0x40000000#32 0x01#8

/-! ### The opcode table, as rows -/

/-- One row of spec/opcode_table.json. -/
structure TableRow where
  mnemonic : String
  format : Format
  pattern : Word48
  mask : Word48
deriving DecidableEq, Repr

/-- A word is of a row when it has the row's format and agrees with the pattern under the mask. -/
def TableRow.covers (r : TableRow) (t : CodedWord) : Bool :=
  r.format == t.format && t.word &&& r.mask == r.pattern

/-- The host-request rows. -/
def requestRows : List TableRow :=
  [⟨"EXCHANGE", .hostRequest, 0x100000000000#48, 0xFF00FFFFFFFF#48⟩,
   ⟨"SELECT", .hostRequest, 0x200000000000#48, 0xFFFFFFFFFFFF#48⟩,
   ⟨"DESELECT", .hostRequest, 0x300000000000#48, 0xFFFFFFFFFFFF#48⟩,
   ⟨"CRC_BUILD", .hostRequest, 0x400000000000#48, 0xFFFFFFFFFFFF#48⟩,
   ⟨"CRC_EXTEND", .hostRequest, 0x500000000000#48, 0xFF00FFFFFF80#48⟩,
   ⟨"SEND_COMMAND", .hostRequest, 0x600000000000#48, 0xFF0000000000#48⟩,
   ⟨"WAIT_TOKEN", .hostRequest, 0x700000000000#48, 0xFFFFFFFFFFFF#48⟩,
   ⟨"DECODE_ERROR_TOKEN", .hostRequest, 0x800000000000#48, 0xFF00FFFFFFFF#48⟩,
   ⟨"INITIALIZE", .hostRequest, 0x900000000000#48, 0xFFFFFFFFFFFF#48⟩,
   ⟨"STATUS", .hostRequest, 0xA00000000000#48, 0xFFFFFFFFFFFF#48⟩]

/-- The SD-frame rows. -/
def frameRows : List TableRow :=
  [⟨"GO_IDLE_STATE", .sdFrame, 0x400000000095#48, 0xFFFFFFFFFFFF#48⟩,
   ⟨"SD_SEND_OP_COND_LEGACY", .sdFrame, 0x410000000001#48, 0xFFFFFFFFFFFF#48⟩,
   ⟨"SEND_IF_COND", .sdFrame, 0x48000001AA87#48, 0xFFFFFFFFFFFF#48⟩,
   ⟨"SEND_CSD", .sdFrame, 0x490000000001#48, 0xFFFFFFFFFFFF#48⟩,
   ⟨"SEND_CID", .sdFrame, 0x4A0000000001#48, 0xFFFFFFFFFFFF#48⟩,
   ⟨"SEND_STATUS", .sdFrame, 0x4D0000000001#48, 0xFFFFFFFFFFFF#48⟩,
   ⟨"SET_BLOCKLEN", .sdFrame, 0x500000000001#48, 0xFF00000000FF#48⟩,
   ⟨"READ_SINGLE_BLOCK", .sdFrame, 0x510000000001#48, 0xFF00000000FF#48⟩,
   ⟨"PROGRAM_CSD", .sdFrame, 0x5B0000000001#48, 0xFFFFFFFFFFFF#48⟩,
   ⟨"LOCK_UNLOCK", .sdFrame, 0x6A0000000001#48, 0xFFFFFFFFFFFF#48⟩,
   ⟨"APP_CMD", .sdFrame, 0x770000000001#48, 0xFFFFFFFFFFFF#48⟩,
   ⟨"READ_OCR", .sdFrame, 0x7A0000000001#48, 0xFFFFFFFFFFFF#48⟩,
   ⟨"SD_SEND_OP_COND", .sdFrame, 0x694000000001#48, 0xFFFFFFFFFFFF#48⟩]

/-- spec/opcode_table.json. -/
def opcodeTable : List TableRow := requestRows ++ frameRows

/-- The mnemonic of an instruction's row. -/
def mnemonic : Instr → String
  | .exchange _ => "EXCHANGE"
  | .select => "SELECT"
  | .deselect => "DESELECT"
  | .crcBuild => "CRC_BUILD"
  | .crcExtend _ _ => "CRC_EXTEND"
  | .sendCommand _ _ => "SEND_COMMAND"
  | .waitToken => "WAIT_TOKEN"
  | .decodeErrorToken _ => "DECODE_ERROR_TOKEN"
  | .initializeCard => "INITIALIZE"
  | .status => "STATUS"
  | .goIdleState => "GO_IDLE_STATE"
  | .sdSendOpCondLegacy => "SD_SEND_OP_COND_LEGACY"
  | .sendIfCond => "SEND_IF_COND"
  | .sendCsd => "SEND_CSD"
  | .sendCid => "SEND_CID"
  | .sendStatus => "SEND_STATUS"
  | .setBlocklen _ => "SET_BLOCKLEN"
  | .readSingleBlock _ => "READ_SINGLE_BLOCK"
  | .programCsd => "PROGRAM_CSD"
  | .lockUnlock => "LOCK_UNLOCK"
  | .appCmd => "APP_CMD"
  | .readOcr => "READ_OCR"
  | .sdSendOpCond => "SD_SEND_OP_COND"

/-! ### The assembler (R88, R89) -/

/-- `CMD k, a` (R88): the request word of SEND_COMMAND. -/
def cmdWord (k : Byte) (a : Word32) : CodedWord := encode (.sendCommand k a)

/-- The request word of a line whose operands fit (R88 and R89). -/
def AsmLine.word : AsmLine → CodedWord
  | .xchg b => encode (.exchange (BitVec.ofNat 8 b))
  | .sel => encode .select
  | .desel => encode .deselect
  | .crcb => encode .crcBuild
  | .crcx c b => encode (.crcExtend (BitVec.ofNat 7 c) (BitVec.ofNat 8 b))
  | .cmd k a => cmdWord (BitVec.ofNat 8 k) (BitVec.ofNat 32 a)
  | .wtok => encode .waitToken
  | .dtok t => encode (.decodeErrorToken (BitVec.ofNat 8 t))
  | .init => encode .initializeCard
  | .stat => encode .status
  | .dummy => encode (.exchange 0xFF#8)
  | .goIdleState => cmdWord 0x40#8 0#32
  | .sendOpCond => cmdWord 0x41#8 0#32
  | .sendIfCond => cmdWord 0x48#8 0x1AA#32
  | .sendCsd => cmdWord 0x49#8 0#32
  | .sendCid => cmdWord 0x4A#8 0#32
  | .sendStatus => cmdWord 0x4D#8 0#32
  | .setBlocklen n => cmdWord 0x50#8 (BitVec.ofNat 32 n)
  | .readSingleBlock a => cmdWord 0x51#8 (BitVec.ofNat 32 a)
  | .programCsd => cmdWord 0x5B#8 0#32
  | .lockUnlock => cmdWord 0x6A#8 0#32
  | .appCmd => cmdWord 0x77#8 0#32
  | .readOcr => cmdWord 0x7A#8 0#32
  | .acmd41 => cmdWord 0xE9#8 0x40000000#32

/-- R88: a line whose operand does not fit its field cannot be assembled. -/
def assemble (l : AsmLine) : Option CodedWord :=
  if l.wellFormed then some l.word else none

/-! ### Words numbered as the table numbers them -/

/-- The coded word that a row of the opcode table writes as the number `w` (`nbits` is 48 in every row). The number alone does not say
which format it is of. A word that is a frame of R80 is taken as that frame, every other word as a host request:
DESIGN CHOICE, entry 5. -/
def codedTableWord (nbits w : Nat) : CodedWord :=
  let word := BitVec.ofNat 48 (w % 2 ^ nbits)
  match decodeFrame word with
  | .ok _ => ⟨.sdFrame, word⟩
  | .error _ => ⟨.hostRequest, word⟩

/-- The instruction the decoder reads from a word of the opcode table, numbered as the table numbers it. -/
def decodeTableWord (nbits w : Nat) : Option Instr :=
  (decode (codedTableWord nbits w)).toOption

end Sys2Proof
end

