-- ==== Sys2Proof/Machine/State.lean ====
section
/-!
DEFINITION. The state of the machine, as plain data: the block's architectural state (10_state R20), the model's observations of it
(the link history of 20_memory R54, the responses of 30_encoding R74), the host of 47_client_sequences R240, and the model's inputs (the
host's pending work and the card's next answers). INVENTORY.md lists every field with its rule and reset value.
-/
namespace Sys2Proof.Machine

/-- The card type (R22, R12). "The value 3 is never written": it is no value of this type (entry 12). -/
inductive CardType where
  | unknown
  | standardCapacity
  | highCapacity
deriving DecidableEq, Repr

/-- The sequencer (R24, R211): idle, or in a state of INITIALIZE. -/
inductive Sequencer where
  /-- "no operation in progress" (R32). -/
  | idle
  | powerSettle
  /-- The `Idle` state of R211, of the card's idle handshake. -/
  | idleHandshake
  | probeCapability
  | highCapacityInit
  | legacyInit
  | ready
  /-- The terminal `NotDetected` of R211. -/
  | notDetected
deriving DecidableEq, Repr

/-- The status codes of R76. The reserved codes 0x5 to 0xD are "never produced" and have no constructor. -/
inductive Status where
  | ok
  | notDetected
  | timeout
  | protocolError
  | dataError
  | crcNotReady
  | illegalRequest
deriving DecidableEq, Repr

/-- What an operation body hands to its caller (R11): a status and a result byte. -/
structure Reply where
  status : Status
  value : Byte
deriving DecidableEq, Repr

/-! ### The CRC table store (20_memory R50, R55) -/

/-- Byte cells by address. The only memory of the block is the CRC table: an address that is not listed holds no value (R28), and
reading it faults. -/
abbrev Memory := List Host.Cell

/-- The canonical form: addresses strictly rising, and inside the 8-bit index range of R55. -/
def Memory.wf (m : Memory) : Bool :=
  decide (m.Pairwise (fun c d => c.1 < d.1)) && m.all (fun c => decide (c.1 < 256))

/-! ### The host's side (47_client_sequences) -/

/-- The four Card Session images (R240). -/
inductive Image where
  | ocr
  | csd
  | cid
  | stat
deriving DecidableEq, Repr

/-- The registers that R242 reads behind a start token. -/
inductive TokenRegister where
  | csd
  | cid
deriving DecidableEq, Repr

/-- The desired results of the double-attempt policy (R263). -/
inductive LockAction where
  | lock
  | unlock
  | forceErase
deriving DecidableEq, Repr

/-- The operations the host runs as sequences of requests, and the two reads of host state that R240(d) and R245 guard. -/
inductive ClientOp where
  /-- R240(a). -/
  | hostInitialize
  /-- R241. -/
  | readOcr
  /-- R242: ReadCSD and ReadCID. -/
  | readRegister (which : TokenRegister)
  /-- R244. -/
  | readCardStatus
  /-- R246. -/
  | readBlock (blockNumber : Word32)
  /-- R250. -/
  | setTemporaryLock (locked : Bool)
  /-- R257. -/
  | modifyPassword (mask : Byte)
  /-- R261. -/
  | forceErase
  /-- R263. -/
  | attempt (action : LockAction)
  /-- A read of an image (R240(d)). -/
  | useImage (which : Image)
  /-- The card-locked predicate (R245). -/
  | queryLocked
deriving DecidableEq, Repr

/-- What the dispatcher is asked for (R264): a client operation, run after a host initialization. -/
inductive UserAction where
  | readOcr
  | readRegister (which : TokenRegister)
  | readCardStatus
  | readBlock (blockNumber : Word32)
  | setTemporaryLock (locked : Bool)
  /-- "set password: 0x01" (R262). -/
  | setPassword
  /-- "clear password: 0x02" (R262). -/
  | clearPassword
  /-- Lock, unlock or force-erase, with the double-attempt policy (R263). -/
  | attempt (action : LockAction)
deriving DecidableEq, Repr

/-- The source's four error kinds (R239). -/
inductive ErrorKind where
  | notDetected
  | timeout
  | protocolError
  | dataError (flags : Byte)
deriving DecidableEq, Repr

/-- The detail of `Fail(kind, detail)` (R239): a raw byte, or R263's "not achieved". -/
inductive FailDetail where
  | raw (b : Byte)
  | notAchieved
deriving DecidableEq, Repr

/-- How a client operation ends (R239). -/
inductive ClientResult where
  | ok
  /-- The bytes of an image whose valid bit is 1 (R240(d)). -/
  | image (bytes : List Byte)
  /-- The value of `Locked()` (R245). -/
  | locked (value : Bool)
  | fail (kind : ErrorKind) (detail : FailDetail)
deriving DecidableEq, Repr

/-- What the host reports of a user action: the three situations R265 keeps apart, and success. -/
inductive Report where
  | completed
  /-- `NotDetected` from INITIALIZE. -/
  | notDetected
  /-- "an operation rejected by the card". -/
  | rejected (kind : ErrorKind) (detail : FailDetail)
  /-- "change not confirmed after rewrite" (R253). -/
  | changeNotConfirmed
deriving DecidableEq, Repr

/-- One item of the host's stream (entry 1). -/
inductive WorkItem where
  /-- A request word, or an SD command named by its frame (entry 4). -/
  | word (w : CodedWord)
  /-- A client operation (entry 9). -/
  | client (op : ClientOp)
  /-- A user action, for the dispatcher (R264). -/
  | user (action : UserAction)
  /-- A block reset (70_reset_and_hazards R310), triggered from outside the block (entry 13). -/
  | blockReset
deriving DecidableEq, Repr

/-- Host state (R240). -/
structure ClientState where
  ocr : List Byte
  csd : List Byte
  cid : List Byte
  stat : List Byte
  ocrV : Bool
  csdV : Bool
  cidV : Bool
  statV : Bool
  /-- The host's copy `type` of the last INITIALIZE VALUE. -/
  cardType : CardType
  pw : List Byte
  pwLen : Nat
  blk : List Byte
  /-- How each client operation ended, in time order (entry 2). -/
  outcomes : List ClientResult
  /-- What each user action was reported as, in time order (entry 2). -/
  reports : List Report
deriving DecidableEq, Repr

/-! ### The machine -/

/-- The state of the whole machine. -/
structure State where
  /-- The card's chip select is asserted (R26). -/
  cs : Bool
  /-- The detected card type (R22, R23). -/
  cardType : CardType
  /-- The CRC-7 lookup table (R27). -/
  crcTable : Memory
  /-- `crc_table` holds the built table (R28). -/
  crcTableValid : Bool
  /-- The sequencer (R24); idle between operations (entry 8). -/
  sequencer : Sequencer
  /-- The link event history, in time order (R54). -/
  history : List LinkEvent
  /-- The responses, in time order (R74; entry 2). -/
  responses : List ResponseWord
  /-- The host's stream of work not yet accepted (R24; entry 1). -/
  work : List WorkItem
  /-- The bytes the card will answer next (R53; entry 3). -/
  cardAnswers : List Byte
  /-- How many bytes the card oracle has drawn (entry 3). -/
  drawn : Nat
  /-- The host (R240). -/
  host : ClientState
deriving DecidableEq, Repr

/-- The faults of R285: "The model's only faults are reads of state that holds no value". All are safe: the machine stops where the
spec says a model must not give a value. -/
inductive Fault where
  /-- A read of a CRC table entry that holds no value (R28, I10). Raised by CRC_EXTEND, where `crcTableValid` is 1 and the entry is not
  listed, which no run reaches. Safe. -/
  | crcEntryWithoutValue
  /-- A read of a Card Session image whose valid bit is 0 (R240(d)), or `Locked()` with `stat_v` = 0 (R245). Raised by
  the client operations `useImage` and `queryLocked`. Safe. -/
  | imageWithoutValue (which : Image)
deriving DecidableEq, Repr

/-- The refusals of R285: "It refuses only the host cases of R247". -/
inductive Refusal where
  /-- An instruction with no meaning yet. Raised by no arm of `exec`. Safe. -/
  | notModelled (mnemonic : String)
  /-- ReadBlock for a card of type Unknown, "for which the source names no address form" (R247). Raised by the client operation
  ReadBlock. Safe. -/
  | readBlockUnknownType
  /-- ReadBlock of a standard-capacity block number of 2^23 or more (R247). Raised by the client operation ReadBlock. Safe. -/
  | readBlockAddressOverflow
deriving DecidableEq, Repr

/-! ### Reset -/

/-- The host's own state before it has done anything: images zero and invalid. DESIGN CHOICE, entry 7, unsafe: the spec gives
the host no reset; R240(a) gives the images these values at every host initialization. -/
def ClientState.reset : ClientState where
  ocr := List.replicate 4 0#8
  csd := List.replicate 16 0#8
  cid := List.replicate 16 0#8
  stat := List.replicate 2 0#8
  ocrV := false
  csdV := false
  cidV := false
  statV := false
  cardType := .unknown
  pw := List.replicate Config.passwordMax 0#8
  pwLen := 0
  blk := List.replicate Config.blockLen 0#8
  outcomes := []
  reports := []

/-- The machine right after reset (R32, R310): the block's fields as the table of R32 gives them, nothing pending, nothing
answered. -/
def State.reset : State where
  cs := false
  cardType := .unknown
  crcTable := []
  crcTableValid := false
  sequencer := .idle
  history := []
  responses := []
  work := []
  cardAnswers := []
  drawn := 0
  host := ClientState.reset

/-! ### Updates, one per field that a meaning writes -/

def State.setCs (s : State) (v : Bool) : State := { s with cs := v }

def State.setCardType (s : State) (v : CardType) : State := { s with cardType := v }

def State.setCrcTable (s : State) (v : Memory) : State := { s with crcTable := v }

def State.setCrcTableValid (s : State) (v : Bool) : State := { s with crcTableValid := v }

def State.setSequencer (s : State) (v : Sequencer) : State := { s with sequencer := v }

/-- Record one link event at the end of the history (R54). -/
def State.record (s : State) (e : LinkEvent) : State := { s with history := s.history ++ [e] }

/-- Append one response (R74). -/
def State.answer (s : State) (y : ResponseWord) : State := { s with responses := s.responses ++ [y] }

def State.setWork (s : State) (v : List WorkItem) : State := { s with work := v }

/-- The card has answered one byte: its next answer is used up and one more byte has been drawn (R53). -/
def State.drawByte (s : State) : State := { s with cardAnswers := s.cardAnswers.tail, drawn := s.drawn + 1 }

def State.setHost (s : State) (v : ClientState) : State := { s with host := v }

end Sys2Proof.Machine
end

