-- ==== Sys2Proof/Machine/Flags.lean ====
section
/-!
DEFINITION. Status codes and classifications. The block has no condition codes (10_state R25): the outcome of a request is the status field of its
own response (30_encoding R75, R76). This file has those codes, the response word, the STATUS byte (R29), and the tests that the rules make
on a received byte (R145, R194, R195).
-/
namespace Sys2Proof.Machine

/-- The code of a status (R76). -/
def Status.code : Status → BitVec 4
  | .ok => 0x0#4
  | .notDetected => 0x1#4
  | .timeout => 0x2#4
  | .protocolError => 0x3#4
  | .dataError => 0x4#4
  | .crcNotReady => 0xE#4
  | .illegalRequest => 0xF#4

/-- The response word (R75): STATUS in [15:12], zero in [11:8], VALUE in [7:0]. -/
def responseWord (status : Status) (value : Byte) : ResponseWord :=
  status.code ++ 0#4 ++ value

/-- The STATUS field of a response (R75). -/
def statusField (y : ResponseWord) : BitVec 4 := y.extractLsb' 12 4

/-- The reserved field of a response (R75). -/
def reservedField (y : ResponseWord) : BitVec 4 := y.extractLsb' 8 4

/-- The VALUE field of a response (R75). -/
def valueField (y : ResponseWord) : Byte := y.extractLsb' 0 8

/-- The encoding of the card type (R22). -/
def CardType.code : CardType → BitVec 2
  | .unknown => 0#2
  | .standardCapacity => 1#2
  | .highCapacity => 2#2

/-- The card type as a result byte: `zext_8(card_type)` (R210). -/
def CardType.value (t : CardType) : Byte := t.code.setWidth 8

/-- The card type that a result byte names (R22), used by the host on INITIALIZE's VALUE (R240(a)). -/
def CardType.ofValue (v : Byte) : CardType :=
  if v = 1#8 then .standardCapacity else if v = 2#8 then .highCapacity else .unknown

/-- The status byte (R29): TYPE [1:0], TBL [2], CS [3], zero [7:4]. -/
def statusByte (cs tableValid : Bool) (t : CardType) : Byte :=
  0#4 ++ BitVec.ofBool cs ++ BitVec.ofBool tableValid ++ t.code

/-- "bit 7 = 1 is no response yet" (R83). -/
def noResponse (r : Byte) : Bool := r.msb

/-- The status of a command whose response poll ended with `r` (R145). -/
def responseStatus (r : Byte) : Status := if noResponse r then .timeout else .ok

/-- The APP_CMD response stops the ACMD when it "exceeds 1" (R141). -/
def stopsAcmd (r55 : Byte) : Bool := decide (0x01#8 < r55)

/-- The status of a short-circuited ACMD (R140, R145). -/
def shortCircuitStatus (r55 : Byte) : Status := if noResponse r55 then .timeout else .protocolError

/-- "A byte is a data-error token exactly when its top three bits are zero" (R194). -/
def isDataErrorToken (token : Byte) : Bool := token.extractLsb' 5 3 == 0#3

/-- The four flags of a data-error token in place (R195): bit 0 is not decoded (R196). -/
def dataErrorFlags (token : Byte) : Byte := token &&& 0x1E#8

end Sys2Proof.Machine
end

