-- ==== Sys2Proof/Machine/Operands.lean ====
section
/-!
DEFINITION. Operand forms. The fields of a request word are taken apart by the decoder (30_encoding R73); what remains is how the host command byte
(R78) and the argument become a frame (R77, R79), which commands keep the card selected (R146), the CRC operands (R123, R125),
and the host's own operand forms (R246, R257).
-/
namespace Sys2Proof.Machine

/-! ### The host command byte (R78) -/

/-- Bit 7: the ACMD flag, never sent on the link. -/
def acmdFlag (command : Byte) : Bool := command.msb

/-- Bits [5:0]: the command index. Bit 6 is ignored. -/
def commandIndex (command : Byte) : CommandIndex := command.extractLsb' 0 6

/-- The host command byte of APP_CMD (R80), which has bit 7 = 0: "ACMD never nests further" (R81). -/
def appCmdCode : Byte := 0x77#8

/-! ### The frame (R77, R79) -/

/-- The CRC byte of a frame, which "depends only on the command index" (R79). -/
def frameCrcByte (idx : CommandIndex) : Byte :=
  if idx = 0#6 then 0x95#8 else if idx = 8#6 then 0x87#8 else 0x01#8

/-- The six bytes of a frame in link order (R77): the argument goes most significant byte first (R56). -/
def frameBytes (idx : CommandIndex) (argument : Word32) : List Byte :=
  [0x40#8 ||| idx.setWidth 8,
   argument.extractLsb' 24 8,
   argument.extractLsb' 16 8,
   argument.extractLsb' 8 8,
   argument.extractLsb' 0 8,
   frameCrcByte idx]

/-- The bytes of a frame "read as a 48-bit big-endian number" (30_encoding, introduction), as spec/opcode_table.json writes
them. -/
def frameNumber (bytes : List Byte) : Word48 :=
  bytes.foldl (fun acc b => acc <<< 8 ||| b.setWidth 48) 0#48

/-- The data-phase set KEEP (R146), as command indices. -/
def keepSet : List CommandIndex := [8#6, 9#6, 10#6, 13#6, 17#6, 27#6, 42#6, 58#6]

/-- The command leaves the card selected (R146). -/
def keepsSelected (idx : CommandIndex) : Bool := keepSet.contains idx

/-! ### CRC operands -/

/-- The table index of CRC_EXTEND (R123): `((crc << 1)[7:0]) ^ byte`. -/
def crcTableIndex (crc : Crc7) (byte : Byte) : Byte := (crc ++ 0#1) ^^^ byte

/-- A CRC-7 value on the wire (R125): the CRC in bits [7:1] and a stop bit of 1. -/
def crcWireByte (crc : Crc7) : Byte := crc ++ 1#1

/-! ### The host's operand forms -/

/-- The address form of ReadBlock (R246): "`block_number` directly for high-capacity cards, `block_number << 9` (byte address)
for legacy cards"; the two refusals are those of R247. -/
def blockAddress (t : CardType) (blockNumber : Word32) : Except Refusal Word32 :=
  match t with
  | .highCapacity => .ok blockNumber
  | .standardCapacity =>
    if 2 ^ 23 ≤ blockNumber.toNat then .error .readBlockAddressOverflow else .ok (blockNumber <<< 9)
  | .unknown => .error .readBlockUnknownType

/-- "restricted to the low 3 bits only" (R257): the erase bit is never sent (R260). -/
def passwordMask (mask : Byte) : Byte := mask &&& 0x07#8

/-- The CMD42 payload of set, clear, lock and unlock (R87, R258): mask, length, password bytes, 0xFF filler, 512 bytes in all. -/
def passwordPayload (mask : Byte) (pw : List Byte) (pwLen : Nat) : List Byte :=
  [passwordMask mask, BitVec.ofNat 8 pwLen] ++ pw.take pwLen ++
    List.replicate (Config.blockLen - 2 - pwLen) Config.fill

/-- The erase mask (R87, R261). -/
def eraseMask : Byte := 0x08#8

/-- The CSD byte 14 with the temporary-lock bit set or cleared (R86, R250). -/
def withLockBit (locked : Bool) (b : Byte) : Byte := if locked then b ||| 0x10#8 else b &&& 0xEF#8

/-- The CSD image with the temporary-lock bit of byte 14 set or cleared (R250). -/
def lockedCsd (locked : Bool) (csd : List Byte) : List Byte := csd.modify 14 (withLockBit locked)

/-- Bit 0 of the second status byte (R85, R245). -/
def lockedFlag (stat : List Byte) : Bool := (stat.getD 1 0#8).getLsbD 0

/-- The mask of a lock or unlock action (R262): lock 0x04, unlock 0x00. -/
def lockMask (locked : Bool) : Byte := if locked then 0x04#8 else 0x00#8

end Sys2Proof.Machine
end

