-- ==== Sys2Proof/Machine/Ops.lean ====
section
/-!
DEFINITION. The named operations over the two places the block reads and writes (20_memory R50), the CRC table and the SPI link, and the two
shapes every meaning is built from: `repeat … until` with a budget, and `respond`. This hardware takes no exception (60_exceptions R280): what
stands in its place is `respond` with an error status (R281), which changes nothing that the operation did before it (R283);
there is no return from it (R284).
-/
namespace Sys2Proof.Machine

/-! ### The CRC table store (R55) -/

/-- Read one cell; an address that is not listed holds no value. -/
def Memory.read : Memory → Nat → Option Byte
  | [], _ => none
  | (b, v) :: m, a => if b = a then some v else Memory.read m a

/-- Write one cell, keeping the addresses strictly rising. -/
def Memory.write : Memory → Nat → Byte → Memory
  | [], a, v => [(a, v)]
  | (b, w) :: m, a, v =>
    if a < b then (a, v) :: (b, w) :: m
    else if a = b then (a, v) :: m
    else (b, w) :: Memory.write m a v

/-- `Table[i]` (R55): the index is 8 bits wide. -/
def State.tableRead (s : State) (i : Byte) : Option Byte := s.crcTable.read i.toNat

/-- `Table[i] <- v` (R55). -/
def State.tableWrite (s : State) (i v : Byte) : State := s.setCrcTable (s.crcTable.write i.toNat v)

/-! ### The SPI link (R51 to R54) -/

/-- The byte the card oracle answers to an exchange that drives `out` (R53): the next answer listed, else a free value. -/
def State.cardAnswer (s : State) (out : Byte) : Byte :=
  s.cardAnswers.headD (Config.cardByte s.drawn s.history s.cs out)

/-- `Exchange(out) -> in` (R51, R100): one full-duplex byte transfer, recorded as `Xfer(cs, out, in)` (R54). -/
def exchange (out : Byte) (s : State) : Byte × State :=
  let received := s.cardAnswer out
  (received, (s.record (.xfer s.cs out received)).drawByte)

/-- `Select()` (R101). -/
def select (s : State) : State := (s.setCs true).record .sel

/-- `Deselect()` (R102). -/
def deselect (s : State) : State := (s.setCs false).record .desel

/-- A dummy exchange (R12): `Exchange(0xFF)` whose received byte is discarded. -/
def dummy (s : State) : State := (exchange Config.fill s).2

/-- Drive the bytes of a list out in order, discarding the bytes received (R142). -/
def sendBytes : List Byte → State → State
  | [], s => s
  | b :: bs, s => sendBytes bs (exchange b s).2

/-- `n` dummy exchanges. -/
def dummies (n : Nat) (s : State) : State := sendBytes (List.replicate n Config.fill) s

/-! ### Bounded loops -/

/-- `repeat body until stop or k == extra + 1`, where k counts the repetitions: the body runs at least once and at most
`extra + 1` times, and the last value is the result. -/
def repeatUntil (body : State → α × State) (stop : α → Bool) : Nat → State → α × State
  | 0, s => body s
  | extra + 1, s =>
    let r := body s
    if stop r.1 then r else repeatUntil body stop extra r.2

/-- The loops of the spec, `repeat body until stop or k == limit`, for a budget of at least one. -/
def repeatWithin (limit : Nat) (body : State → α × State) (stop : α → Bool) (s : State) : α × State :=
  repeatUntil body stop (limit - 1) s

/-! ### Responding -/

/-- `respond(status, value)` (R11, R74, R75): the one response of the request, after its last link event. Every error of R281 is
reported so. -/
def respond (status : Status) (value : Byte) (s : State) : State :=
  s.answer (responseWord status value)

/-- Respond with the reply of an operation body. -/
def respondReply (r : Reply × State) : State := respond r.1.status r.1.value r.2

/-! ### Block reset -/

/-- Block reset (R310), in a machine that is already running: the values of R32 for the block, and nothing else. "Block reset does not
reset the card" (R33), so the card's answers and the draw counter stay; the host and its stream are no block state
(R31). What triggers it belongs to HOST_BINDING, so it is an item of the stream and no request (entry 13). -/
def State.blockReset (s : State) : State :=
  { s with
    cs := false, cardType := .unknown, crcTable := [], crcTableValid := false, sequencer := .idle, history := [] }

end Sys2Proof.Machine
end

