-- ==== Sys2Proof/Machine/Transport.lean ====
section
/-!
DEFINITION. The command transport (42_command_transport): the framer and responder, and SEND_COMMAND.
-/
namespace Sys2Proof.Machine

/-- The open sequence (R143): deselect, one dummy exchange, select, one dummy exchange, whatever `cs` was. -/
def openSequence (s : State) : State := dummy (select (dummy (deselect s)))

/-- The response poll (R144): exchange 0xFF up to 10 times, stopping at the first byte whose bit 7 is 0. -/
def pollResponse (s : State) : Byte × State :=
  repeatWithin Config.respPollLimit (exchange Config.fill) (fun r => !noResponse r) s

/-- The close sequence (R147): deselect and one trailing dummy exchange. -/
def closeSequence (s : State) : State := dummy (deselect s)

/-- One command without a prefix: open, frame (R142), poll, then close unless the index is in KEEP (R146), whatever the
response was. The result is the raw response byte. -/
def transact (idx : CommandIndex) (argument : Word32) (s : State) : Byte × State :=
  let r := pollResponse (sendBytes (frameBytes idx argument) (openSequence s))
  (r.1, if keepsSelected idx then r.2 else closeSequence r.2)

/-- One command without a prefix, with the status of R145. -/
def sendPlain (idx : CommandIndex) (argument : Word32) (s : State) : Reply × State :=
  let r := transact idx argument s
  (⟨responseStatus r.1, r.1⟩, r.2)

/-- `SendCommand(command, argument)` (R140). For an ACMD (R141), APP_CMD with argument 0 goes first; a response greater than 1
short-circuits. The prefix command has bit 7 = 0 (R81), so the spec's recursion is one call of `sendPlain`. -/
def sendCommand (command : Byte) (argument : Word32) (s : State) : Reply × State :=
  if acmdFlag command then
    let r55 := sendPlain (commandIndex appCmdCode) 0#32 s
    if stopsAcmd r55.1.value then (⟨shortCircuitStatus r55.1.value, r55.1.value⟩, r55.2)
    else sendPlain (commandIndex command) argument r55.2
  else sendPlain (commandIndex command) argument s

/-- SEND_COMMAND (R140): one call of `SendCommand`, then its status and raw byte. It never repeats a command (R148). -/
def execSendCommand (command : Byte) (argument : Word32) (s : State) : Host.Outcome State Fault Refusal :=
  .next (respondReply (sendCommand command argument s))

end Sys2Proof.Machine
end

