-- ==== Sys2Proof/Machine/Commands.lean ====
section
/-!
DEFINITION. The SD commands of 43_sd_commands (R160 to R172). "Each is a SEND_COMMAND with a fixed command byte": the meaning of a row is the
`SendCommand` call its rule gives as pseudocode, answered as SEND_COMMAND answers (entry 4). "No command changes block state other than `cs`."
What follows a command on the link is the card's and the host's part (`Machine/Client.lean`).
-/
namespace Sys2Proof.Machine

/-- GO_IDLE_STATE (CMD0, R160): expected response exactly 0x01. Phase close. -/
def execGoIdleState (s : State) : Host.Outcome State Fault Refusal :=
  .next (respondReply (sendCommand 0x40#8 0#32 s))

/-- SD_SEND_OP_COND legacy (CMD1, R161): expected response 0x00 when the card is ready. Phase close. -/
def execSdSendOpCondLegacy (s : State) : Host.Outcome State Fault Refusal :=
  .next (respondReply (sendCommand 0x41#8 0#32 s))

/-- SEND_IF_COND (CMD8, R162) with the pattern 0x1AA. Phase keep; the caller consumes the 4-byte echo. -/
def execSendIfCond (s : State) : Host.Outcome State Fault Refusal :=
  .next (respondReply (sendCommand 0x48#8 Config.ifCondPattern s))

/-- SEND_CSD (CMD9, R163). Phase keep. -/
def execSendCsd (s : State) : Host.Outcome State Fault Refusal :=
  .next (respondReply (sendCommand 0x49#8 0#32 s))

/-- SEND_CID (CMD10, R164). Phase keep. -/
def execSendCid (s : State) : Host.Outcome State Fault Refusal :=
  .next (respondReply (sendCommand 0x4A#8 0#32 s))

/-- SEND_STATUS (CMD13, R165): the response is the first status byte. Phase keep. -/
def execSendStatus (s : State) : Host.Outcome State Fault Refusal :=
  .next (respondReply (sendCommand 0x4D#8 0#32 s))

/-- SET_BLOCKLEN (CMD16, R166): the argument is the block length in bytes. Phase close. -/
def execSetBlocklen (length : Word32) (s : State) : Host.Outcome State Fault Refusal :=
  .next (respondReply (sendCommand 0x50#8 length s))

/-- READ_SINGLE_BLOCK (CMD17, R167): the block forwards any address unchanged (R58). Phase keep. -/
def execReadSingleBlock (address : Word32) (s : State) : Host.Outcome State Fault Refusal :=
  .next (respondReply (sendCommand 0x51#8 address s))

/-- PROGRAM_CSD (CMD27, R168). Phase keep. -/
def execProgramCsd (s : State) : Host.Outcome State Fault Refusal :=
  .next (respondReply (sendCommand 0x5B#8 0#32 s))

/-- LOCK_UNLOCK (CMD42, R169). Phase keep. -/
def execLockUnlock (s : State) : Host.Outcome State Fault Refusal :=
  .next (respondReply (sendCommand 0x6A#8 0#32 s))

/-- APP_CMD (CMD55, R170), sent directly by the host. Phase close. -/
def execAppCmd (s : State) : Host.Outcome State Fault Refusal :=
  .next (respondReply (sendCommand 0x77#8 0#32 s))

/-- READ_OCR (CMD58, R171). Phase keep. -/
def execReadOcr (s : State) : Host.Outcome State Fault Refusal :=
  .next (respondReply (sendCommand 0x7A#8 0#32 s))

/-- SD_SEND_OP_COND (ACMD41, R172): host code 0xE9 and bit 30 of the argument; the APP_CMD frame goes first. Phase close. -/
def execSdSendOpCond (s : State) : Host.Outcome State Fault Refusal :=
  .next (respondReply (sendCommand 0xE9#8 Config.hcsArg s))

end Sys2Proof.Machine
end

