-- ==== Sys2Proof/Machine/Crc.lean ====
section
/-!
DEFINITION. The CRC-7 engine (41_crc7): the function CRC7 of R120 bit by bit, the table of R121, and the operations CRC_BUILD and CRC_EXTEND. The bit
loop and the table loop are the spec's own, from general knowledge (93 I1, I2), checked there against the fixed frame CRC bytes.
-/
namespace Sys2Proof.Machine

/-! ### The CRC-7 function (R120) -/

/-- One bit into the CRC register: shift left, exclusive-or 0x09 (CRC_POLY without its x^7 term) when the feedback is 1. -/
def crc7Bit (crc : Crc7) (b : Bool) : Crc7 :=
  let shifted := crc <<< 1
  if crc.msb ^^ b then shifted ^^^ Config.crcPoly.setWidth 7 else shifted

/-- The bits of a byte, most significant first. -/
def bitsMsbFirst (b : Byte) : List Bool := [7, 6, 5, 4, 3, 2, 1, 0].map b.getLsbD

/-- One byte into the CRC register. -/
def crc7Byte (crc : Crc7) (b : Byte) : Crc7 := (bitsMsbFirst b).foldl crc7Bit crc

/-- `CRC7(bytes)` (R120), seeded at 0, with no final exclusive-or. -/
def crc7 (bytes : List Byte) : Crc7 := bytes.foldl crc7Byte 0#7

/-! ### The table (R121) -/

/-- Exclusive-or the polynomial in when bit 7 is set. -/
def reduceTop (v : Byte) : Byte := if v.msb then v ^^^ Config.crcPoly else v

/-- The entry of index `i` (R121): one reduction, then seven rounds of shift and reduction. -/
def crcTableEntry (i : Byte) : Byte :=
  Nat.repeat (fun v => reduceTop (v <<< 1)) 7 (reduceTop i)

/-- Write the entries of a list of indices, in order. -/
def buildEntries : List Nat → State → State
  | [], s => s
  | i :: is, s => buildEntries is (s.tableWrite (BitVec.ofNat 8 i) (crcTableEntry (BitVec.ofNat 8 i)))

/-- Write all 256 entries (R121). -/
def buildTable (s : State) : State := buildEntries (List.range 256) s

/-- CRC_BUILD (R121): write the 256 entries, then mark the table valid. No link event. -/
def execCrcBuild (s : State) : Host.Outcome State Fault Refusal :=
  .next (respond .ok 0x00#8 ((buildTable s).setCrcTableValid true))

/-- CRC_EXTEND (R123): CRC_NOT_READY before the table is built; else VALUE is the entry of `((crc << 1)[7:0]) ^ byte`. A read of an
entry that holds no value faults (R28, I10), which the valid bit guards. -/
def execCrcExtend (crc : Crc7) (byte : Byte) (s : State) : Host.Outcome State Fault Refusal :=
  if s.crcTableValid then
    match s.tableRead (crcTableIndex crc byte) with
    | some v => .next (respond .ok v s)
    | none => .fault .crcEntryWithoutValue
  else .next (respond .crcNotReady 0x00#8 s)

end Sys2Proof.Machine
end

