-- ==== Sys2Proof/Machine/Initialize.lean ====
section
/-!
DEFINITION. The card-initialization state machine (45_initialization). The steps R212 to R219 are one definition each. The instruction INITIALIZE
runs the sequencer of R211 through its states, in one transition (10_state R24); `initializeCard` is the same operation as the
pseudocode of R210 writes it, and an obligation says that the two agree.
-/
namespace Sys2Proof.Machine

/-! ### The steps -/

/-- PowerSettle (R212): deselect, then `nSettle` dummy exchanges. -/
def powerSettle (nSettle : Nat) (s : State) : State := dummies nSettle (deselect s)

/-- The idle handshake (R213): GO_IDLE_STATE up to 16 times, until the response byte is exactly 0x01. -/
def idleHandshake (s : State) : Reply × State :=
  repeatWithin Config.idleRetryLimit (sendCommand 0x40#8 0#32) (fun r => r.value == 0x01#8) s

/-- SET_BLOCKLEN(512), response ignored (R214). -/
def setBlockLength (s : State) : State := (sendCommand 0x50#8 (BitVec.ofNat 32 Config.blockLen) s).2

/-- SEND_IF_COND with the pattern (R215). -/
def probeIfCond (s : State) : Reply × State := sendCommand 0x48#8 Config.ifCondPattern s

/-- READ_OCR (R215). -/
def probeOcr (s : State) : Reply × State := sendCommand 0x7A#8 0#32 s

/-- HighCapacityInit (R218): consume the 4-byte echo, then ACMD41 up to 20000 times until the response is 0x00; the type is set
whether or not it came (R220). -/
def highCapacityInit (s : State) : State :=
  (repeatWithin Config.initLoopLimit (sendCommand 0xE9#8 Config.hcsArg) (fun r => r.value == 0x00#8)
    (dummies 4 s)).2.setCardType .highCapacity

/-- LegacyInit (R217): consume the 4 OCR bytes, then CMD1 up to 20000 times until the response is 0x00, then SET_BLOCKLEN(512)
again; the type is set whether or not it came (R220). -/
def legacyInit (s : State) : State :=
  (setBlockLength
    (repeatWithin Config.initLoopLimit (sendCommand 0x41#8 0#32) (fun r => r.value == 0x00#8)
      (dummies 4 s)).2).setCardType .standardCapacity

/-- Ready (R219): the final dummy exchange, then OK with the type code. -/
def readyReply (s : State) : Reply × State := (⟨.ok, (dummy s).cardType.value⟩, dummy s)

/-! ### The pseudocode of R210 -/

/-- `Initialize()` (R210), with N_SETTLE as an argument (R8). -/
def initializeCard (nSettle : Nat) (s : State) : Reply × State :=
  let idle := idleHandshake (powerSettle nSettle (s.setCardType .unknown))
  if idle.1.value ≠ 0x01#8 then (⟨.notDetected, 0x00#8⟩, idle.2)
  else
    let r8 := probeIfCond (setBlockLength idle.2)
    if r8.1.value = 0x01#8 then readyReply (highCapacityInit r8.2)
    else
      let r58 := probeOcr r8.2
      if r58.1.value = 0x01#8 then readyReply (legacyInit r58.2) else readyReply r58.2

/-! ### The sequencer of R211 -/

/-- One transition of the sequencer (R211). -/
def sequencerStep (nSettle : Nat) (s : State) : State :=
  match s.sequencer with
  | .idle => s
  | .powerSettle => (powerSettle nSettle s).setSequencer .idleHandshake
  | .idleHandshake =>
    let r := idleHandshake s
    if r.1.value = 0x01#8 then (setBlockLength r.2).setSequencer .probeCapability
    else r.2.setSequencer .notDetected
  | .probeCapability =>
    let r8 := probeIfCond s
    if r8.1.value = 0x01#8 then r8.2.setSequencer .highCapacityInit
    else
      let r58 := probeOcr r8.2
      if r58.1.value = 0x01#8 then r58.2.setSequencer .legacyInit else r58.2.setSequencer .ready
  | .highCapacityInit => (highCapacityInit s).setSequencer .ready
  | .legacyInit => (legacyInit s).setSequencer .ready
  | .ready => (respondReply (readyReply s)).setSequencer .idle
  | .notDetected => (respond .notDetected 0x00#8 s).setSequencer .idle

/-- The sequencer to the end of the operation: R211 has no path of more than five transitions. -/
def runSequencer (nSettle : Nat) (s : State) : State :=
  Nat.repeat (sequencerStep nSettle) 5 s

/-- INITIALIZE (R210): `card_type` is Unknown before the first exchange (R221), then the sequencer runs. -/
def execInitializeCard (s : State) : Host.Outcome State Fault Refusal :=
  .next (runSequencer Config.nSettle ((s.setCardType .unknown).setSequencer .powerSettle))

end Sys2Proof.Machine
end

