-- ==== Sys2Proof/Machine/Link.lean ====
section
/-!
DEFINITION. The bus exchange family and the state view (40_bus_exchange): EXCHANGE, SELECT, DESELECT, STATUS. Each answers OK, always.
-/
namespace Sys2Proof.Machine

/-- EXCHANGE (R100): one transfer of `byte_out`; VALUE is the byte received. -/
def execExchange (byteOut : Byte) (s : State) : Host.Outcome State Fault Refusal :=
  let r := exchange byteOut s
  .next (respond .ok r.1 r.2)

/-- SELECT (R101): recorded also when `cs` is 1 already. -/
def execSelect (s : State) : Host.Outcome State Fault Refusal :=
  .next (respond .ok 0x00#8 (select s))

/-- DESELECT (R102). The dummy exchange that the protocol asks for after it is the host's duty (R103, R314). -/
def execDeselect (s : State) : Host.Outcome State Fault Refusal :=
  .next (respond .ok 0x00#8 (deselect s))

/-- STATUS (R104): the status byte of R29. No link event. -/
def execStatus (s : State) : Host.Outcome State Fault Refusal :=
  .next (respond .ok (statusByte s.cs s.crcTableValid s.cardType) s)

end Sys2Proof.Machine
end

