-- ==== Sys2Proof/Machine/Token.lean ====
section
/-!
DEFINITION. The token-polling receiver and the error-token decoder (44_token_receiver): WAIT_TOKEN and DECODE_ERROR_TOKEN.
-/
namespace Sys2Proof.Machine

/-- `WaitForToken()` (R190): exchange 0xFF until a byte other than 0xFF comes, at most 100 times. -/
def waitForToken (s : State) : Reply × State :=
  let r := repeatWithin Config.tokenPollLimit (exchange Config.fill) (fun t => t != 0xFF#8) s
  (⟨if r.1 = 0xFF#8 then .timeout else .ok, r.1⟩, r.2)

/-- WAIT_TOKEN (R190): it runs whatever `cs` is (R192(e)). -/
def execWaitToken (s : State) : Host.Outcome State Fault Refusal :=
  .next (respondReply (waitForToken s))

/-- DECODE_ERROR_TOKEN (R193): DATA_ERROR with the four flags, or OK with 0x00. No link event. -/
def execDecodeErrorToken (token : Byte) (s : State) : Host.Outcome State Fault Refusal :=
  .next (if isDataErrorToken token then respond .dataError (dataErrorFlags token) s else respond .ok 0x00#8 s)

end Sys2Proof.Machine
end

