-- ==== Sys2Proof/Machine/Dispatch.lean ====
section
/-!
DEFINITION. The meaning of every instruction: one arm per constructor of `Instr`.
-/
namespace Sys2Proof.Machine

def exec (i : Instr) (s : State) : Host.Outcome State Fault Refusal :=
  match i with
  | .exchange byteOut => Sys2Proof.Machine.execExchange byteOut s
  | .select => Sys2Proof.Machine.execSelect s
  | .deselect => Sys2Proof.Machine.execDeselect s
  | .crcBuild => Sys2Proof.Machine.execCrcBuild s
  | .crcExtend crc byte => Sys2Proof.Machine.execCrcExtend crc byte s
  | .sendCommand command argument => Sys2Proof.Machine.execSendCommand command argument s
  | .waitToken => Sys2Proof.Machine.execWaitToken s
  | .decodeErrorToken token => Sys2Proof.Machine.execDecodeErrorToken token s
  | .initializeCard => Sys2Proof.Machine.execInitializeCard s
  | .status => Sys2Proof.Machine.execStatus s
  | .goIdleState => Sys2Proof.Machine.execGoIdleState s
  | .sdSendOpCondLegacy => Sys2Proof.Machine.execSdSendOpCondLegacy s
  | .sendIfCond => Sys2Proof.Machine.execSendIfCond s
  | .sendCsd => Sys2Proof.Machine.execSendCsd s
  | .sendCid => Sys2Proof.Machine.execSendCid s
  | .sendStatus => Sys2Proof.Machine.execSendStatus s
  | .setBlocklen length => Sys2Proof.Machine.execSetBlocklen length s
  | .readSingleBlock address => Sys2Proof.Machine.execReadSingleBlock address s
  | .programCsd => Sys2Proof.Machine.execProgramCsd s
  | .lockUnlock => Sys2Proof.Machine.execLockUnlock s
  | .appCmd => Sys2Proof.Machine.execAppCmd s
  | .readOcr => Sys2Proof.Machine.execReadOcr s
  | .sdSendOpCond => Sys2Proof.Machine.execSdSendOpCond s

end Sys2Proof.Machine
end

