-- ==== Sys2Proof/Machine/Request.lean ====
section
/-!
DEFINITION. One request from the host's side: the word is checked, run and answered (60_exceptions R282), and the host binds the response's
STATUS and VALUE (47_client_sequences R239). `andThen` runs one request after another (20_memory R61).
-/
namespace Sys2Proof.Machine

/-- One request (R72, R282): an illegal word gets ILLEGAL_REQUEST "before any state is read or written and before any link
event"; a legal word is run. -/
def request (w : CodedWord) (s : State) : Host.Outcome State Fault Refusal :=
  match decode w with
  | .ok i => exec i s
  | .error _ => .next (respond .illegalRequest 0x00#8 s)

/-- Sequencing: a fault or a refusal ends the sequence. -/
def andThen (o : Host.Outcome α Fault Refusal) (f : α → Host.Outcome β Fault Refusal) : Host.Outcome β Fault Refusal :=
  match o with
  | .next a => f a
  | .fault r => .fault r
  | .refused r => .refused r

/-- The response to the last request (R74); the host reads it only after a request. -/
def State.lastResponse (s : State) : ResponseWord := s.responses.getLastD 0#16

/-- `(s, v) <- …` (R239): issue the request word of an instruction and bind its response. -/
def issue (i : Instr) (s : State) : Host.Outcome (ResponseWord × State) Fault Refusal :=
  andThen (request (encode i) s) fun s' => .next (s'.lastResponse, s')

/-- Issue the same request and use the state only. -/
def issue_ (i : Instr) (s : State) : Host.Outcome State Fault Refusal :=
  andThen (issue i s) fun r => .next r.2

/-- `CMD k, a`, also under its pseudo-instruction names (R89). -/
def cmd (k : Byte) (a : Word32) (s : State) : Host.Outcome (ResponseWord × State) Fault Refusal :=
  issue (.sendCommand k a) s

/-- `XCHG b` for each byte of a list, in order; the received bytes in order. -/
def exchangeEach : List Byte → State → Host.Outcome (List Byte × State) Fault Refusal
  | [], s => .next ([], s)
  | b :: bs, s =>
    andThen (issue (.exchange b) s) fun r =>
      andThen (exchangeEach bs r.2) fun rest => .next (valueField r.1 :: rest.1, rest.2)

/-- `n` times `XCHG 0xFF`. -/
def receive (n : Nat) (s : State) : Host.Outcome (List Byte × State) Fault Refusal :=
  exchangeEach (List.replicate n Config.fill) s

/-- `XCHG b` for each byte of a list, received bytes unused. -/
def transmit (bytes : List Byte) (s : State) : Host.Outcome State Fault Refusal :=
  andThen (exchangeEach bytes s) fun r => .next r.2

/-- `Close()` (R239): DESEL, then XCHG 0xFF. -/
def close (s : State) : Host.Outcome State Fault Refusal :=
  andThen (issue_ .deselect s) fun s' => issue_ (.exchange Config.fill) s'

end Sys2Proof.Machine
end

