-- ==== Sys2Proof/Machine/Client.lean ====
section
/-!
DEFINITION. The host's client sequences (47_client_sequences): each is a sequence of block requests over host state, ending `Ok` or
`Fail(kind, detail)` (R239), and one `step` of the model runs one of them (entry 9).
-/
namespace Sys2Proof.Machine

/-- What a client sequence answers. -/
abbrev ClientOutcome := Host.Outcome (ClientResult × State) Fault Refusal

/-! ### Host state (R240) -/

/-- Set an image to zero and its valid bit to 0, as every read sequence does first. -/
def ClientState.zeroImage (h : ClientState) : Image → ClientState
  | .ocr => { h with ocr := List.replicate 4 0#8, ocrV := false }
  | .csd => { h with csd := List.replicate 16 0#8, csdV := false }
  | .cid => { h with cid := List.replicate 16 0#8, cidV := false }
  | .stat => { h with stat := List.replicate 2 0#8, statV := false }

/-- Store an image and set its valid bit: "set only when its read sequence ends `Ok`" (R240(b)). -/
def ClientState.storeImage (h : ClientState) (bytes : List Byte) : Image → ClientState
  | .ocr => { h with ocr := bytes, ocrV := true }
  | .csd => { h with csd := bytes, csdV := true }
  | .cid => { h with cid := bytes, cidV := true }
  | .stat => { h with stat := bytes, statV := true }

/-- The bytes of an image. -/
def ClientState.image (h : ClientState) : Image → List Byte
  | .ocr => h.ocr
  | .csd => h.csd
  | .cid => h.cid
  | .stat => h.stat

/-- The valid bit of an image. -/
def ClientState.valid (h : ClientState) : Image → Bool
  | .ocr => h.ocrV
  | .csd => h.csdV
  | .cid => h.cidV
  | .stat => h.statV

/-- Clear all four valid bits (R240(c)). -/
def ClientState.invalidate (h : ClientState) : ClientState :=
  { h with ocrV := false, csdV := false, cidV := false, statV := false }

/-- Set all four images to zero and all four valid bits to 0 (R240(a)). -/
def ClientState.zeroAll (h : ClientState) : ClientState :=
  (((h.zeroImage .ocr).zeroImage .csd).zeroImage .cid).zeroImage .stat

/-- Change the host's state. -/
def State.onHost (s : State) (f : ClientState → ClientState) : State := s.setHost (f s.host)

/-- `Fail(kind, detail)` (R239): "Every client operation that ends `Fail` clears all four valid bits" (R240(c)). -/
def failWith (kind : ErrorKind) (detail : FailDetail) (s : State) : ClientOutcome :=
  .next (.fail kind detail, s.onHost ClientState.invalidate)

/-- `Ok`. -/
def succeed (s : State) : ClientOutcome := .next (.ok, s)

/-- The kind of a failed command: `Timeout if s == TIMEOUT else ProtocolError` (R241, R250, R257, R261). -/
def commandFailure (y : ResponseWord) : ErrorKind :=
  if statusField y = Status.timeout.code then .timeout else .protocolError

/-- The response has status OK. -/
def answeredOk (y : ResponseWord) : Bool := statusField y == Status.ok.code

/-- "STATUS OK and R1 = 0x00": success of PROGRAM_CSD and acceptance of LOCK_UNLOCK (R250, R257, R261). -/
def accepted (y : ResponseWord) : Bool := answeredOk y && valueField y == 0x00#8

/-- `Close(); Fail(Timeout if s == TIMEOUT else ProtocolError, r)`. -/
def closeAndFail (y : ResponseWord) (s : State) : ClientOutcome :=
  andThen (close s) (failWith (commandFailure y) (.raw (valueField y)))

/-- `TokenFail(s, t)` (R248). -/
def tokenFail (y : ResponseWord) (s : State) : ClientOutcome :=
  if statusField y = Status.timeout.code then failWith .timeout (.raw 0xFF#8) s
  else
    andThen (issue (.decodeErrorToken (valueField y)) s) fun d =>
      if statusField d.1 = Status.dataError.code then
        failWith (.dataError (valueField d.1)) (.raw (valueField y)) d.2
      else failWith .protocolError (.raw (valueField y)) d.2

/-- The token was the start token 0xFE (R242, R246). -/
def gotStartToken (y : ResponseWord) : Bool := valueField y == Config.startToken

/-! ### Initialization and reads (R240 to R246) -/

/-- Host initialization (R240(a)): zero the images, issue INIT, set `type` from its response. NOT_DETECTED ends it as
`Fail(NotDetected, VALUE)`. -/
def hostInitialize (s : State) : ClientOutcome :=
  andThen (issue .initializeCard (s.onHost ClientState.zeroAll)) fun r =>
    if answeredOk r.1 then
      succeed (r.2.onHost fun h => { h with cardType := CardType.ofValue (valueField r.1) })
    else failWith .notDetected (.raw (valueField r.1)) (r.2.onHost fun h => { h with cardType := .unknown })

/-- ReadOCR (R241). -/
def readOcr (s : State) : ClientOutcome :=
  andThen (cmd 0x7A#8 0#32 (s.onHost (·.zeroImage .ocr))) fun r =>
    if !answeredOk r.1 || decide (0x01#8 < valueField r.1) then closeAndFail r.1 r.2
    else
      andThen (receive 4 r.2) fun d =>
        andThen (close d.2) fun s' => succeed (s'.onHost (·.storeImage d.1 .ocr))

/-- The host command byte of a token-gated register read (R242). -/
def TokenRegister.code : TokenRegister → Byte
  | .csd => 0x49#8
  | .cid => 0x4A#8

/-- The image of a token-gated register read (R242). -/
def TokenRegister.image : TokenRegister → Image
  | .csd => .csd
  | .cid => .cid

/-- ReadCSD and ReadCID (R242): the R1 byte is not examined, the two CRC bytes are not checked (R243). -/
def readRegister (which : TokenRegister) (s : State) : ClientOutcome :=
  andThen (cmd which.code 0#32 (s.onHost (·.zeroImage which.image))) fun r =>
    andThen (issue .waitToken r.2) fun t =>
      if gotStartToken t.1 then
        andThen (receive 16 t.2) fun d =>
          andThen (receive 2 d.2) fun crc =>
            andThen (close crc.2) fun s' => succeed (s'.onHost (·.storeImage d.1 which.image))
      else andThen (close t.2) (tokenFail t.1)

/-- ReadCardStatus (R244): the R1 byte and one more byte, no token. -/
def readCardStatus (s : State) : ClientOutcome :=
  andThen (cmd 0x4D#8 0#32 (s.onHost (·.zeroImage .stat))) fun r =>
    if answeredOk r.1 then
      andThen (receive 1 r.2) fun d =>
        andThen (close d.2) fun s' => succeed (s'.onHost (·.storeImage (valueField r.1 :: d.1) .stat))
    else andThen (close r.2) (failWith .timeout (.raw (valueField r.1)))

/-- ReadBlock (R246), for an address that the card type gives (R247 refuses the rest). -/
def readBlockAt (address : Word32) (s : State) : ClientOutcome :=
  andThen (cmd 0x51#8 address (s.onHost fun h => { h with blk := List.replicate Config.blockLen 0#8 })) fun r =>
    andThen (issue .waitToken r.2) fun t =>
      if gotStartToken t.1 then
        andThen (receive Config.blockLen t.2) fun d =>
          andThen (receive 2 d.2) fun crc =>
            andThen (close crc.2) fun s' => succeed (s'.onHost fun h => { h with blk := d.1 })
      else andThen (close t.2) (tokenFail t.1)

/-- ReadBlock (R246, R247). -/
def readBlock (blockNumber : Word32) (s : State) : ClientOutcome :=
  match blockAddress s.host.cardType blockNumber with
  | .ok address => readBlockAt address s
  | .error r => .refused r

/-- A read of an image (R240(d)): "A model must fault a read of it, not return zeros", where the valid bit is 0. -/
def useImage (which : Image) (s : State) : ClientOutcome :=
  if s.host.valid which then .next (.image (s.host.image which), s) else .fault (.imageWithoutValue which)

/-- `Locked()` (R245): no value when `stat_v` is 0. -/
def queryLocked (s : State) : ClientOutcome :=
  if s.host.statV then .next (.locked (lockedFlag s.host.stat), s) else .fault (.imageWithoutValue .stat)

/-! ### Writes (R250 to R261) -/

/-- The exchanges of BusyPoll (R252) after the first: at most `extra` more while the byte is 0x00. -/
def pollBusy : Nat → State → Host.Outcome (Byte × State) Fault Refusal
  | 0, s => andThen (issue (.exchange Config.fill) s) fun r => .next (valueField r.1, r.2)
  | extra + 1, s =>
    andThen (issue (.exchange Config.fill) s) fun r =>
      if valueField r.1 = 0x00#8 then pollBusy extra r.2 else .next (valueField r.1, r.2)

/-- `BusyPoll(); Close()`, then `Ok` or the BusyPoll failure (R250, R252, R257), with what the sequence does to host state
between the two. -/
def busyPollAndClose (after : ClientState → ClientState) (s : State) : ClientOutcome :=
  andThen (pollBusy (Config.busyPollLimit - 1) s) fun r =>
    andThen (close r.2) fun s' =>
      if r.1 = 0x00#8 then failWith .timeout (.raw 0x00#8) (s'.onHost after)
      else succeed (s'.onHost after)

/-- Send CSD bytes, advancing the running CRC over each: `XCHG csd[i]; (_, c) <- CRCX c, csd[i]` (R250). -/
def sendWithCrc : List Byte → Crc7 → State → Host.Outcome (Crc7 × State) Fault Refusal
  | [], c, s => .next (c, s)
  | b :: bs, c, s =>
    andThen (issue_ (.exchange b) s) fun s' =>
      andThen (issue (.crcExtend c b) s') fun r => sendWithCrc bs ((valueField r.1).setWidth 7) r.2

/-- The write phase of SetTemporaryLock (R250): start token, bytes 0 to 14, the CSD's own CRC byte (R255), two dummy CRC bytes,
busy poll, close; then `csd_v` is cleared. -/
def writeCsd (s : State) : ClientOutcome :=
  andThen (transmit [Config.startToken] s) fun s₁ =>
    andThen (sendWithCrc (s₁.host.csd.take 15) 0#7 s₁) fun r =>
      andThen (transmit [crcWireByte r.1, Config.fill, Config.fill] r.2)
        (busyPollAndClose fun h => { h with csdV := false })

/-- SetTemporaryLock (R250). It does not build the CRC table, which R312 wants built before: entry 18. -/
def setTemporaryLock (locked : Bool) (s : State) : ClientOutcome :=
  andThen (readRegister .csd s) fun read =>
    match read.1 with
    | .ok =>
      andThen (cmd 0x5B#8 0#32 (read.2.onHost fun h => { h with csd := lockedCsd locked h.csd })) fun r =>
        if accepted r.1 then writeCsd r.2 else closeAndFail r.1 r.2
    | failed => .next (failed, read.2)

/-- LoadDefaultPassword (R256), with DEFAULT_PASSWORD as an argument (R8). The rule says nothing of `pw[pw_len..15]`: they become the
bytes of the argument past its length, which nothing sends. DESIGN CHOICE, entry 17. -/
def ClientState.loadPassword (bytes : Vector Byte Config.passwordMax) (length : Fin (Config.passwordMax + 1))
    (h : ClientState) : ClientState :=
  { h with pw := bytes.toList, pwLen := length.val }

/-- ModifyPassword (R257), with DEFAULT_PASSWORD as an argument (R8). -/
def modifyPasswordWith (bytes : Vector Byte Config.passwordMax) (length : Fin (Config.passwordMax + 1)) (mask : Byte)
    (s : State) : ClientOutcome :=
  andThen (cmd 0x6A#8 0#32 (s.onHost (·.loadPassword bytes length))) fun r =>
    if accepted r.1 then
      andThen (transmit
          ([Config.startToken] ++ passwordPayload mask r.2.host.pw r.2.host.pwLen ++ [Config.fill, Config.fill]) r.2)
        (busyPollAndClose id)
    else closeAndFail r.1 r.2

/-- ModifyPassword (R257). -/
def modifyPassword (mask : Byte) (s : State) : ClientOutcome :=
  modifyPasswordWith Config.defaultPasswordBytes Config.defaultPasswordLength mask s

/-- ForceErase (R261): the block length is left at 1 (R319). -/
def forceErase (s : State) : ClientOutcome :=
  andThen (cmd 0x50#8 1#32 s) fun r₁ =>
    andThen (cmd 0x6A#8 0#32 r₁.2) fun r =>
      if accepted r.1 then
        andThen (transmit [Config.startToken, eraseMask] r.2) fun s' => andThen (close s') succeed
      else closeAndFail r.1 r.2

/-! ### The double-attempt policy (R263) -/

/-- The operation of an action, and the lock state it wants (R263). -/
def LockAction.run : LockAction → State → ClientOutcome
  | .lock => modifyPassword (lockMask true)
  | .unlock => modifyPassword (lockMask false)
  | .forceErase => Sys2Proof.Machine.forceErase

/-- `want_locked` (R263). -/
def LockAction.wantsLocked : LockAction → Bool
  | .lock => true
  | .unlock => false
  | .forceErase => false

/-- One attempt: the operation, whose own outcome is not used, then the status read; true when it was achieved. -/
def attemptOnce (op : State → ClientOutcome) (want : Bool) (s : State) : Host.Outcome (Bool × State) Fault Refusal :=
  andThen (op s) fun r =>
    andThen (readCardStatus r.2) fun st =>
      .next (decide (st.1 = .ok) && st.2.host.statV && (lockedFlag st.2.host.stat == want), st.2)

/-- `Action(op, want_locked)` (R263): at most two attempts. -/
def attemptTwice (op : State → ClientOutcome) (want : Bool) (s : State) : ClientOutcome :=
  andThen (attemptOnce op want s) fun first =>
    if first.1 then succeed first.2
    else
      andThen (attemptOnce op want first.2) fun second =>
        if second.1 then succeed second.2 else failWith .protocolError .notAchieved second.2

/-! ### All client operations -/

/-- The sequence of a client operation. -/
def clientOp (op : ClientOp) (s : State) : ClientOutcome :=
  match op with
  | .hostInitialize => hostInitialize s
  | .readOcr => readOcr s
  | .readRegister which => readRegister which s
  | .readCardStatus => readCardStatus s
  | .readBlock blockNumber => readBlock blockNumber s
  | .setTemporaryLock locked => setTemporaryLock locked s
  | .modifyPassword mask => modifyPassword mask s
  | .forceErase => forceErase s
  | .attempt action => attemptTwice action.run action.wantsLocked s
  | .useImage which => useImage which s
  | .queryLocked => queryLocked s

/-- Run a client operation and record how it ended (entry 2). -/
def runClient (op : ClientOp) (s : State) : ClientOutcome :=
  andThen (clientOp op s) fun r =>
    .next (r.1, r.2.onHost fun h => { h with outcomes := h.outcomes ++ [r.1] })

/-! ### The dispatcher (R264, R265) -/

/-- The client operation of a user action, with the masks of R262. -/
def UserAction.op : UserAction → ClientOp
  | .readOcr => .readOcr
  | .readRegister which => .readRegister which
  | .readCardStatus => .readCardStatus
  | .readBlock blockNumber => .readBlock blockNumber
  | .setTemporaryLock locked => .setTemporaryLock locked
  | .setPassword => .modifyPassword 0x01#8
  | .clearPassword => .modifyPassword 0x02#8
  | .attempt action => .attempt action

/-- Record what a user action is reported as (R265). -/
def reportAs (report : Report) (s : State) : Host.Outcome State Fault Refusal :=
  .next (s.onHost fun h => { h with reports := h.reports ++ [report] })

/-- Report how a client operation ended (R265). -/
def reportResult (r : ClientResult × State) : Host.Outcome State Fault Refusal :=
  match r.1 with
  | .fail .notDetected _ => reportAs .notDetected r.2
  | .fail kind detail => reportAs (.rejected kind detail) r.2
  | .ok | .image _ | .locked _ => reportAs .completed r.2

/-- After a successful SetTemporaryLock the caller re-reads the OCR and the CSD to confirm the change (R253). A re-read that
fails is reported as its own failure: DESIGN CHOICE, entry 15. -/
def confirmLock (locked : Bool) (s : State) : Host.Outcome State Fault Refusal :=
  andThen (runClient .readOcr s) fun ocr =>
    match ocr.1 with
    | .ok =>
      andThen (runClient (.readRegister .csd) ocr.2) fun csd =>
        match csd.1 with
        | .ok =>
          if ((csd.2.host.csd.getD 14 0#8).getLsbD 4) = locked then reportAs .completed csd.2
          else reportAs .changeNotConfirmed csd.2
        | _ => reportResult csd
    | _ => reportResult ocr

/-- A user action (R264): "always re-initialize before any card operation", then the operation, then the report. With the card not
detected, no operation follows (95_test_vectors S8). No rule says which host sequence issues the CRCB of R311; no user action does, so it has
to stand in the stream as a word of its own: DESIGN CHOICE, entry 18. -/
def dispatch (action : UserAction) (s : State) : Host.Outcome State Fault Refusal :=
  andThen (runClient .hostInitialize s) fun init =>
    match init.1 with
    | .ok =>
      andThen (runClient action.op init.2) fun r =>
        match action, r.1 with
        | .setTemporaryLock locked, .ok => confirmLock locked r.2
        | _, _ => reportResult r
    | _ => reportResult init

end Sys2Proof.Machine
end

