-- ==== Sys2Proof/Machine/Step.lean ====
section
/-!
DEFINITION. One step of the machine. The host's stream orders the block's work (10_state R24); a step accepts one item, runs it to completion
(00_scope R6, 20_memory R59), and leaves its response. With nothing to accept, the block waits (70_reset_and_hazards R310).
-/
namespace Sys2Proof.Machine

/-- Run one item of the host's stream. A bare request word, INITIALIZE among them, changes nothing of the host's images, valid bits and
`type`: the spec gives those rules for the host's own sequences only (R240(a), R221). DESIGN CHOICE, entry 16. -/
def accept (item : WorkItem) (s : State) : Host.Outcome State Fault Refusal :=
  match item with
  | .word w => request w s
  | .client op => andThen (runClient op s) fun r => .next r.2
  | .user action => dispatch action s
  | .blockReset => .next s.blockReset

/-- One step. While an operation is in progress no request is accepted (R59): the operation is run to its end (entry 8). -/
def step (s : State) : Host.Outcome State Fault Refusal :=
  match s.sequencer with
  | .idle =>
    match s.work with
    | [] => .next s
    | item :: rest => accept item (s.setWork rest)
  | _ => .next (runSequencer Config.nSettle s)

/-- The state with a word of the opcode table, numbered as the table numbers it, as the next item of the host's stream. -/
def State.withFetchWord (s : State) (nbits w : Nat) : State :=
  (s.setWork (.word (codedTableWord nbits w) :: s.work)).setSequencer .idle

end Sys2Proof.Machine
end

