-- ==== Sys2Proof/Safety.lean ====
section
/-!
DEFINITION. The terms claims are stated in: what a stretch of link traffic is, what a safe run is, and the invariant of the machine.
-/
namespace Sys2Proof.Machine

/-! ### Link traffic (20_memory R54) -/

/-- The bytes driven on the link, in order. -/
def drivenBytes (es : List LinkEvent) : List Byte :=
  es.filterMap fun e => match e with
    | .xfer _ out _ => some out
    | .sel => none
    | .desel => none

/-- The bytes received on the link, in order. -/
def receivedBytes (es : List LinkEvent) : List Byte :=
  es.filterMap fun e => match e with
    | .xfer _ _ received => some received
    | .sel => none
    | .desel => none

/-- The number of exchanges: "the only measure of duration" (70_reset_and_hazards R320). -/
def xferCount (es : List LinkEvent) : Nat := (drivenBytes es).length

/-- The chip select after a list of events, from its value before. -/
def csAfter : Bool → List LinkEvent → Bool
  | c, [] => c
  | _, .sel :: es => csAfter true es
  | _, .desel :: es => csAfter false es
  | c, .xfer _ _ _ :: es => csAfter c es

/-- Every exchange is recorded with the chip select that the events before it left (R54). -/
def consistentFrom : Bool → List LinkEvent → Bool
  | _, [] => true
  | _, .sel :: es => consistentFrom true es
  | _, .desel :: es => consistentFrom false es
  | c, .xfer cs _ _ :: es => (cs == c) && consistentFrom c es

/-- `t` is `s` after the link traffic `es` and nothing else: the events are recorded at the end of the history, `cs` is what they
left, the bytes received are the card's next answers as far as answers are listed, and no other field has changed. -/
structure LinkRun (s t : State) (es : List LinkEvent) : Prop where
  history : t.history = s.history ++ es
  cs : t.cs = csAfter s.cs es
  consistent : consistentFrom s.cs es = true
  answers : t.cardAnswers = s.cardAnswers.drop (xferCount es)
  drawn : t.drawn = s.drawn + xferCount es
  received : (receivedBytes es).take s.cardAnswers.length = s.cardAnswers.take (xferCount es)
  cardType : t.cardType = s.cardType
  crcTable : t.crcTable = s.crcTable
  crcTableValid : t.crcTableValid = s.crcTableValid
  sequencer : t.sequencer = s.sequencer
  responses : t.responses = s.responses
  work : t.work = s.work
  host : t.host = s.host

/-- The results of a bounded loop, in order, ended by its last: at least one, at most `limit`; no result but the last stops the
loop, and the last does unless the budget is used up. -/
structure PollEnds {α : Type} (limit : Nat) (stop : α → Bool) (results : List α) (last : α) : Prop where
  ends : results.getLast? = some last
  within : results.length ≤ limit
  goesOn : ∀ b ∈ results.dropLast, stop b = false
  stops : stop last = true ∨ results.length = limit

/-- A frame as one number (R77, R79): 0b01, the index, the argument, the CRC byte that the index fixes. -/
def frameOf (idx : CommandIndex) (argument : Word32) : Word48 :=
  0b01#2 ++ idx ++ argument ++ (if idx = 0#6 then 0x95#8 else if idx = 8#6 then 0x87#8 else 0x01#8)

/-- The link traffic of one command without a prefix, and its response byte (R142 to R147). -/
def PlainCommand (idx : CommandIndex) (argument : Word32) (es : List LinkEvent) (r : Byte) : Prop :=
  ∃ (d₁ d₂ d₃ : Byte) (frame received polls : List Byte),
    frame.length = 6 ∧ frameNumber frame = frameOf idx argument ∧ received.length = 6 ∧
    PollEnds 10 (fun b => b.toNat < 0x80) polls r ∧
    es = [.desel, .xfer false 0xFF#8 d₁, .sel, .xfer true 0xFF#8 d₂] ++
      List.zipWith (LinkEvent.xfer true) frame received ++
      polls.map (LinkEvent.xfer true 0xFF#8) ++
      (if idx ∈ [8#6, 9#6, 10#6, 13#6, 17#6, 27#6, 42#6, 58#6] then []
       else [.desel, .xfer false 0xFF#8 d₃])

/-- The link traffic of an SD command as SEND_COMMAND sends it, with the status and the byte it answers (R140, R141): for a host
byte with bit 7 set, APP_CMD goes first and a response greater than 1 ends it. -/
def CommandTraffic (command : Byte) (argument : Word32) (es : List LinkEvent) (status : Status) (r : Byte) : Prop :=
  let idx : CommandIndex := command.setWidth 6
  let answer : Byte → Status := fun b => if 0x80 ≤ b.toNat then .timeout else .ok
  if command.toNat < 0x80 then PlainCommand idx argument es r ∧ status = answer r
  else
    ∃ es₅₅ r₅₅, PlainCommand 55#6 0#32 es₅₅ r₅₅ ∧
      if 1 < r₅₅.toNat then
        es = es₅₅ ∧ r = r₅₅ ∧ status = (if 0x80 ≤ r₅₅.toNat then .timeout else .protocolError)
      else ∃ es', PlainCommand idx argument es' r ∧ es = es₅₅ ++ es' ∧ status = answer r

/-- What INITIALIZE does on the link after a SEND_IF_COND answered 0x01 (R218, R219): the four echo bytes, the ACMD41 rounds until one answers
0x00 or 20000 are used up, the final dummy exchange with the card released. -/
def HighCapacityTraffic (es : List LinkEvent) : Prop :=
  ∃ (echo : List Byte) (rounds : List (List LinkEvent × Reply)) (last : Reply) (d : Byte),
    echo.length = 4 ∧ PollEnds 20000 (fun r => r.value == 0x00#8) (rounds.map Prod.snd) last ∧
    (∀ x ∈ rounds, CommandTraffic 0xE9#8 0x40000000#32 x.1 x.2.status x.2.value) ∧
    es = echo.map (LinkEvent.xfer true 0xFF#8) ++ (rounds.map Prod.fst).flatten ++ [.xfer false 0xFF#8 d]

/-- What INITIALIZE does on the link after a READ_OCR answered 0x01 (R217, R219): the four OCR bytes, the CMD1 rounds until one answers 0x00
or 20000 are used up, SET_BLOCKLEN(512), the final dummy exchange with the card released. -/
def LegacyTraffic (es : List LinkEvent) : Prop :=
  ∃ (ocr : List Byte) (rounds : List (List LinkEvent × Byte)) (last : Byte) (es₁₆ : List LinkEvent) (r₁₆ d : Byte),
    ocr.length = 4 ∧ PollEnds 20000 (fun r => r == 0x00#8) (rounds.map Prod.snd) last ∧
    (∀ x ∈ rounds, PlainCommand 1#6 0#32 x.1 x.2) ∧ PlainCommand 16#6 512#32 es₁₆ r₁₆ ∧
    es = ocr.map (LinkEvent.xfer true 0xFF#8) ++ (rounds.map Prod.fst).flatten ++ es₁₆ ++ [.xfer false 0xFF#8 d]

/-- The end of a write (R252, R239): busy polls of 0xFF until a byte other than 0x00 or until 65535 are used up, `Close()`, and how the
operation ends with it. -/
def BusyTraffic (es : List LinkEvent) (res : ClientResult) : Prop :=
  ∃ (busy : List Byte) (last d : Byte),
    PollEnds 65535 (fun b => b != 0x00#8) busy last ∧
    es = busy.map (LinkEvent.xfer true 0xFF#8) ++ [.desel, .xfer false 0xFF#8 d] ∧
    res = if last = 0x00#8 then .fail .timeout (.raw 0x00#8) else .ok

/-- A command whose response the host does not accept (R250, R257, R261): `Close()`, and `Fail` with the raw response. -/
def RejectedTraffic (r : Byte) (es : List LinkEvent) (res : ClientResult) : Prop :=
  (∃ d, es = [.desel, .xfer false 0xFF#8 d]) ∧
    res = .fail (if 0x80 ≤ r.toNat then .timeout else .protocolError) (.raw r)

/-! ### Groups of instructions -/

/-- The instructions that exchange bytes with the card and write nothing of the block but `cs`: EXCHANGE (R100), WAIT_TOKEN (R190), SEND_COMMAND
(R140), and the SD commands (43_sd_commands: "No command changes block state other than `cs`"). -/
def linkInstruction : Instr → Bool
  | .exchange _ | .waitToken | .sendCommand _ _ => true
  | .goIdleState | .sdSendOpCondLegacy | .sendIfCond | .sendCsd | .sendCid | .sendStatus | .setBlocklen _ => true
  | .readSingleBlock _ | .programCsd | .lockUnlock | .appCmd | .readOcr | .sdSendOpCond => true
  | .select | .deselect | .crcBuild | .crcExtend _ _ | .decodeErrorToken _ | .initializeCard | .status => false

/-- The instructions that only answer: CRC_EXTEND (R123), DECODE_ERROR_TOKEN (R193), STATUS (R104). -/
def answerOnlyInstruction : Instr → Bool
  | .crcExtend _ _ | .decodeErrorToken _ | .status => true
  | .exchange _ | .select | .deselect | .crcBuild | .sendCommand _ _ | .waitToken | .initializeCard => false
  | .goIdleState | .sdSendOpCondLegacy | .sendIfCond | .sendCsd | .sendCid | .sendStatus | .setBlocklen _ => false
  | .readSingleBlock _ | .programCsd | .lockUnlock | .appCmd | .readOcr | .sdSendOpCond => false

/-! ### The invariant -/

/-- The history and `cs` agree (R26, R54). -/
def State.LinkInv (s : State) : Prop :=
  consistentFrom false s.history = true ∧ csAfter false s.history = s.cs

/-- The CRC table is canonical; it holds every entry when it is valid (R27, R122), and no entry when it is not (R28). -/
def State.TableInv (s : State) : Prop :=
  s.crcTable.wf = true ∧
    (if s.crcTableValid then ∀ i : Byte, s.tableRead i = some ((crc7 [i]).setWidth 8) else s.crcTable = [])

/-- Every response is a word of R75 with a status of R76: bits [11:8] zero, no reserved code. -/
def State.ResponseInv (s : State) : Prop :=
  ∀ y ∈ s.responses, reservedField y = 0#4 ∧ ∃ st : Status, statusField y = st.code

/-- The host's images and buffers have the sizes of R240. -/
def ClientState.sized (h : ClientState) : Prop :=
  h.ocr.length = 4 ∧ h.csd.length = 16 ∧ h.cid.length = 16 ∧ h.stat.length = 2 ∧
    h.pw.length = 16 ∧ h.pwLen ≤ 16 ∧ h.blk.length = 512

/-- The invariant of the machine between operations. -/
structure State.Inv (s : State) : Prop where
  link : s.LinkInv
  table : s.TableInv
  response : s.ResponseInv
  host : s.host.sized
  /-- "When no operation is running, the sequencer is in its idle state" (R24). -/
  sequencer : s.sequencer = .idle

/-! ### Safe runs -/

/-- A step that answers a next state: no fault and no refusal. -/
def State.SafeStep (s : State) : Prop := ∃ t, step s = .next t

/-- A run of `n` steps that meets no fault and no refusal. -/
def State.SafeFor : Nat → State → Prop
  | 0, _ => True
  | n + 1, s => ∃ t, step s = .next t ∧ State.SafeFor n t

/-! ### Chaining CRC_EXTEND (41_crc7 R124) -/

/-- Issue CRC_EXTEND over a list of bytes, each with the VALUE of the one before as its `crc`. -/
def extendChain : List Byte → Crc7 → State → Host.Outcome (Crc7 × State) Fault Refusal
  | [], c, s => .next (c, s)
  | b :: bs, c, s =>
    andThen (issue (.crcExtend c b) s) fun r => extendChain bs ((valueField r.1).setWidth 7) r.2

end Sys2Proof.Machine
end

