-- ==== Sys2Proof/Certificates/Slice0/Obligations.lean ====
section
/-!
DEFINITION. The statements for the provers: one definition per obligation of OBLIGATIONS.json. Response words are written out as STATUS, zero
and VALUE (30_encoding R75), link traffic as events (20_memory R54), with the terms of Safety.lean.
-/
open Sys2Proof Sys2Proof.Machine

/-! ### Encodings -/

/-- No operand bit of a host request (R71) or of an SD frame (R80) is dropped by the encoder or the decoder. -/
def Obligations.DecodeOfEncodeIsTheInstruction : Prop :=
  ∀ i : Instr, i.wellFormed = true → decode (encode i) = .ok i

/-- Every legal word has one meaning, and encoding that meaning gives the word back (R71, R80). -/
def Obligations.EncodeOfDecodeIsTheWord : Prop :=
  ∀ (w : CodedWord) (i : Instr), decode w = .ok i → encode i = w

/-- The decoder accepts exactly the words of the opcode table's rows, each as the instruction of its row. -/
def Obligations.DecoderAcceptsExactlyTheTableRows : Prop :=
  ∀ w : CodedWord,
    (∀ i, decode w = .ok i → ∃ r ∈ opcodeTable, r.covers w = true ∧ r.mnemonic = mnemonic i) ∧
    (∀ r ∈ opcodeTable, r.covers w = true → ∃ i, decode w = .ok i ∧ mnemonic i = r.mnemonic)

/-- Words written out from the spec's encodings (R70, R71, R80), one or two for each family. -/
def Obligations.WordsOfTheSpecDecode : Prop :=
  decode ⟨.hostRequest, 0x1_0_5A_00000000#48⟩ = .ok (.exchange 0x5A#8) ∧
  decode ⟨.hostRequest, 0x5_0_77_0000003B#48⟩ = .ok (.crcExtend 0x3B#7 0x77#8) ∧
  decode ⟨.hostRequest, 0x6_0_E9_40000000#48⟩ = .ok (.sendCommand 0xE9#8 0x40000000#32) ∧
  decode ⟨.hostRequest, 0x8_0_1F_00000000#48⟩ = .ok (.decodeErrorToken 0x1F#8) ∧
  decode ⟨.hostRequest, 0x9_0_00_00000000#48⟩ = .ok .initializeCard ∧
  decode ⟨.sdFrame, 0x48_000001AA_87#48⟩ = .ok .sendIfCond ∧
  decode ⟨.sdFrame, 0x51_00000200_01#48⟩ = .ok (.readSingleBlock 0x200#32)

/-- The assembler of R88: each mnemonic's word as the rule writes it (`O R AA BBBBBBBB`), and no word where an operand does not
fit. -/
def Obligations.AssemblerGivesTheWordsOfTheRule : Prop :=
  (∀ b, assemble (.xchg b) = if b ≤ 0xFF then some ⟨.hostRequest, BitVec.ofNat 48 (0x1_0_00_00000000 + b * 2 ^ 32)⟩ else none) ∧
  assemble .sel = some ⟨.hostRequest, 0x2_0_00_00000000#48⟩ ∧
  assemble .desel = some ⟨.hostRequest, 0x3_0_00_00000000#48⟩ ∧
  assemble .crcb = some ⟨.hostRequest, 0x4_0_00_00000000#48⟩ ∧
  (∀ c b, assemble (.crcx c b) =
    if c ≤ 0x7F ∧ b ≤ 0xFF then some ⟨.hostRequest, BitVec.ofNat 48 (0x5_0_00_00000000 + b * 2 ^ 32 + c)⟩ else none) ∧
  (∀ k a, assemble (.cmd k a) =
    if k ≤ 0xFF ∧ a ≤ 0xFFFFFFFF then some ⟨.hostRequest, BitVec.ofNat 48 (0x6_0_00_00000000 + k * 2 ^ 32 + a)⟩
    else none) ∧
  assemble .wtok = some ⟨.hostRequest, 0x7_0_00_00000000#48⟩ ∧
  (∀ t, assemble (.dtok t) = if t ≤ 0xFF then some ⟨.hostRequest, BitVec.ofNat 48 (0x8_0_00_00000000 + t * 2 ^ 32)⟩ else none) ∧
  assemble .init = some ⟨.hostRequest, 0x9_0_00_00000000#48⟩ ∧
  assemble .stat = some ⟨.hostRequest, 0xA_0_00_00000000#48⟩

/-- The pseudo-instructions of R89 and their expansions. -/
def Obligations.PseudoInstructionsExpand : Prop :=
  assemble .dummy = assemble (.xchg 0xFF) ∧
  assemble .goIdleState = assemble (.cmd 0x40 0) ∧
  assemble .sendOpCond = assemble (.cmd 0x41 0) ∧
  assemble .sendIfCond = assemble (.cmd 0x48 0x1AA) ∧
  assemble .sendCsd = assemble (.cmd 0x49 0) ∧
  assemble .sendCid = assemble (.cmd 0x4A 0) ∧
  assemble .sendStatus = assemble (.cmd 0x4D 0) ∧
  (∀ n, assemble (.setBlocklen n) = assemble (.cmd 0x50 n)) ∧
  (∀ a, assemble (.readSingleBlock a) = assemble (.cmd 0x51 a)) ∧
  assemble .programCsd = assemble (.cmd 0x5B 0) ∧
  assemble .lockUnlock = assemble (.cmd 0x6A 0) ∧
  assemble .appCmd = assemble (.cmd 0x77 0) ∧
  assemble .readOcr = assemble (.cmd 0x7A 0) ∧
  assemble .acmd41 = assemble (.cmd 0xE9 0x40000000)

/-! ### A step -/

/-- A step with an idle sequencer and a legal word at the head of the host's stream takes the word off the stream and runs its
instruction. That a step runs a word tagged `sdFrame` is the model's choice (entry 4). -/
def Obligations.StepRunsTheDecodedInstruction : Prop :=
  ∀ (s : State) (w : CodedWord) (rest : List WorkItem) (i : Instr),
    s.sequencer = .idle → s.work = .word w :: rest → decode w = .ok i → step s = exec i (s.setWork rest)

/-- R72: a request word with a reserved OP, or a non-zero field that its row of R71 requires to be zero, gets 0xF000 and changes
nothing else. -/
def Obligations.IllegalRequestIsAnsweredAndChangesNothing : Prop :=
  ∀ (s : State) (w : Word48) (rest : List WorkItem),
    s.sequencer = .idle → s.work = .word ⟨.hostRequest, w⟩ :: rest →
    (let op := w.toNat / 2 ^ 44
     let rsv := w.toNat / 2 ^ 40 % 2 ^ 4
     let a := w.toNat / 2 ^ 32 % 2 ^ 8
     let b := w.toNat % 2 ^ 32
     op = 0 ∨ 0xB ≤ op ∨ rsv ≠ 0 ∨
       (op ∈ [0x2, 0x3, 0x4, 0x7, 0x9, 0xA] ∧ (a ≠ 0 ∨ b ≠ 0)) ∨
       (op ∈ [0x1, 0x8] ∧ b ≠ 0) ∨
       (op = 0x5 ∧ 2 ^ 7 ≤ b)) →
    step s = .next ((s.setWork rest).answer 0xF000#16)

/-- With nothing to accept, the block waits (R310). -/
def Obligations.BlockWaitsWithNothingToAccept : Prop :=
  ∀ s : State, s.sequencer = .idle → s.work = [] → step s = .next s

/-- Every request word, legal or not, gets exactly one response, a word of R75 with a status of R76, and is taken off the
stream. That a word tagged `sdFrame` gets one too is the model's choice (entry 4): the spec's requests are the words tagged
`hostRequest`. -/
def Obligations.EveryRequestGetsOneResponse : Prop :=
  ∀ (s t : State) (w : CodedWord) (rest : List WorkItem),
    s.sequencer = .idle → s.work = .word w :: rest → step s = .next t →
    t.work = rest ∧
    ∃ y : ResponseWord, t.responses = s.responses ++ [y] ∧ y.toNat / 2 ^ 8 % 2 ^ 4 = 0 ∧
      y.toNat / 2 ^ 12 ∈ [0x0, 0x1, 0x2, 0x3, 0x4, 0xE, 0xF]

/-! ### Invariants and whole-machine rules -/

/-- The invariant holds right after reset. -/
def Obligations.InvariantHoldsAtReset : Prop := State.reset.Inv

/-- Every step keeps the invariant: the history agrees with `cs`, the CRC table is canonical and complete or empty as its valid bit
says, every response is well formed, the host's buffers keep their sizes, the sequencer is idle. -/
def Obligations.EveryStepKeepsTheInvariant : Prop :=
  ∀ s t : State, s.Inv → step s = .next t → t.Inv

/-- No step but a block reset takes an event or a response back (R54, R74, R283). -/
def Obligations.HistoryAndResponsesOnlyGrow : Prop :=
  ∀ s t : State, (∀ rest, s.work ≠ .blockReset :: rest) → step s = .next t →
    s.history <+: t.history ∧ s.responses <+: t.responses

/-- R23: no instruction but INITIALIZE changes the card type. -/
def Obligations.OnlyInitializeWritesTheCardType : Prop :=
  ∀ (i : Instr) (s t : State), i ≠ .initializeCard → exec i s = .next t → t.cardType = s.cardType

/-- R26, R27: the six operations that R26 names never change `cs`, and no instruction but CRC_BUILD writes the CRC table. -/
def Obligations.ChipSelectAndTableHaveTheirWriters : Prop :=
  ∀ (i : Instr) (s t : State), exec i s = .next t →
    (i ∈ [.crcBuild, .waitToken, .status] ∨ (∃ b, i = .exchange b) ∨ (∃ c b, i = .crcExtend c b) ∨
        (∃ k, i = .decodeErrorToken k) →
      t.cs = s.cs) ∧
    (i ≠ .crcBuild → t.crcTable = s.crcTable)

/-- R28: `crc_table_valid` never returns to 0, and only CRC_BUILD sets it. -/
def Obligations.TableValidBitOnlyRises : Prop :=
  ∀ (i : Instr) (s t : State), exec i s = .next t →
    (s.crcTableValid = true → t.crcTableValid = true) ∧
    (s.crcTableValid = false → t.crcTableValid = true → i = .crcBuild)

/-- R285: in every state between operations, every instruction answers a next state; no block operation faults or is refused. -/
def Obligations.NoInstructionFaultsOrIsRefused : Prop :=
  ∀ (i : Instr) (s : State), s.Inv → ∃ t, exec i s = .next t

/-- R281: which instruction answers with which status, and the values that go with it. -/
def Obligations.StatusesOfEachInstruction : Prop :=
  ∀ (i : Instr) (s t : State), exec i s = .next t →
    ∃ (st : Status) (v : Byte), t.responses = s.responses ++ [st.code ++ 0#4 ++ v] ∧
      match i with
      | .exchange _ | .select | .deselect | .crcBuild | .status => st = .ok
      | .crcExtend _ _ => st = .ok ∨ (st = .crcNotReady ∧ v = 0x00#8)
      | .waitToken => (st = .ok ∧ v ≠ 0xFF#8) ∨ (st = .timeout ∧ v = 0xFF#8)
      | .decodeErrorToken _ => (st = .ok ∧ v = 0x00#8) ∨ st = .dataError
      | .initializeCard => (st = .ok ∧ v.toNat ≤ 2) ∨ (st = .notDetected ∧ v = 0x00#8)
      | .sendCommand c _ =>
        (st = .ok ∧ v.toNat < 0x80) ∨ (st = .timeout ∧ 0x80 ≤ v.toNat) ∨
          (st = .protocolError ∧ 0x80 ≤ c.toNat ∧ 0x02 ≤ v.toNat ∧ v.toNat < 0x80)
      | .sdSendOpCond =>
        (st = .ok ∧ v.toNat < 0x80) ∨ (st = .timeout ∧ 0x80 ≤ v.toNat) ∨
          (st = .protocolError ∧ 0x02 ≤ v.toNat ∧ v.toNat < 0x80)
      | .goIdleState | .sdSendOpCondLegacy | .sendIfCond | .sendCsd | .sendCid | .sendStatus | .setBlocklen _
      | .readSingleBlock _ | .programCsd | .lockUnlock | .appCmd | .readOcr =>
        (st = .ok ∧ v.toNat < 0x80) ∨ (st = .timeout ∧ 0x80 ≤ v.toNat)

/-- The host is outside the block (R31): what it holds, what it has pending and what it was answered before changes nothing an
instruction does to the block, the link or the card, and nothing of the response. -/
def Obligations.HostStateDoesNotInfluenceTheBlock : Prop :=
  ∀ (i : Instr) (s t : State) (h : ClientState) (w : List WorkItem) (ys : List ResponseWord),
    exec i s = .next t →
    ∃ y, t.responses = s.responses ++ [y] ∧
      exec i { s with host := h, work := w, responses := ys } =
        .next { t with host := h, work := w, responses := ys ++ [y] }

/-- Every byte the block receives is the card's next answer, in order (R53): the answers listed are used up one per exchange. -/
def Obligations.ReceivedBytesAreTheCardsAnswers : Prop :=
  ∀ (i : Instr) (s t : State), exec i s = .next t →
    ∃ es, t.history = s.history ++ es ∧
      (receivedBytes es).take s.cardAnswers.length = s.cardAnswers.take (xferCount es) ∧
      t.cardAnswers = s.cardAnswers.drop (xferCount es)

/-- A block reset gives the block the values of R32, answers nothing, and leaves the card alone (R33): its next answers are the same. -/
def Obligations.BlockResetLeavesTheCardAlone : Prop :=
  ∀ (s : State) (rest : List WorkItem), s.sequencer = .idle → s.work = .blockReset :: rest → ∃ t, step s = .next t ∧
    t.cs = false ∧ t.cardType = .unknown ∧ t.crcTableValid = false ∧ (∀ i : Byte, t.tableRead i = none) ∧
    t.history = [] ∧ t.sequencer = .idle ∧
    t.cardAnswers = s.cardAnswers ∧ t.drawn = s.drawn ∧ t.responses = s.responses ∧ t.work = rest ∧ t.host = s.host

/-! ### Frames -/

/-- EXCHANGE, WAIT_TOKEN, SEND_COMMAND and the SD commands change only `cs`, the history, the responses and the card's answers; EXCHANGE
and WAIT_TOKEN leave `cs` as well. -/
def Obligations.LinkInstructionsFrame : Prop :=
  ∀ (i : Instr) (s t : State), linkInstruction i = true → exec i s = .next t →
    t.cardType = s.cardType ∧ (∀ a : Byte, t.tableRead a = s.tableRead a) ∧ t.crcTableValid = s.crcTableValid ∧
    t.sequencer = s.sequencer ∧ t.work = s.work ∧ t.host = s.host ∧
    (i = .waitToken ∨ (∃ b, i = .exchange b) → t.cs = s.cs)

/-- CRC_EXTEND, DECODE_ERROR_TOKEN and STATUS change nothing but the responses: no link event, no state (R104, R123, R193). -/
def Obligations.AnswerOnlyInstructionsFrame : Prop :=
  ∀ (i : Instr) (s t : State), answerOnlyInstruction i = true → exec i s = .next t → ∃ y, t = s.answer y

/-- INITIALIZE leaves the CRC table, its valid bit, the stream and the host alone. -/
def Obligations.InitializeFrame : Prop :=
  ∀ s t : State, exec .initializeCard s = .next t →
    (∀ a : Byte, t.tableRead a = s.tableRead a) ∧ t.crcTableValid = s.crcTableValid ∧ t.work = s.work ∧ t.host = s.host

/-! ### The bus exchange family (R100 to R104) -/

/-- R100: one exchange of `byte_out` with `cs` as it is; VALUE is the byte received. -/
def Obligations.ExchangeTransfersOneByte : Prop :=
  ∀ (b : Byte) (s : State), ∃ (r : Byte) (u : State),
    exec (.exchange b) s = .next (u.answer (0x00#8 ++ r)) ∧ LinkRun s u [.xfer s.cs b r]

/-- R101, R102: SELECT and DESELECT drive the chip select, record their event whatever it was, and answer 0x0000. -/
def Obligations.SelectAndDeselectDriveTheChipSelect : Prop :=
  ∀ s : State,
    exec .select s =
      .next { s with cs := true, history := s.history ++ [.sel], responses := s.responses ++ [0x0000#16] } ∧
    exec .deselect s =
      .next { s with cs := false, history := s.history ++ [.desel], responses := s.responses ++ [0x0000#16] }

/-- R104, R29: STATUS answers OK with the status byte and changes nothing. -/
def Obligations.StatusReportsTheState : Prop :=
  ∀ s : State, ∃ v : Byte,
    exec .status s = .next (s.answer (0x00#8 ++ v)) ∧
    v.toNat % 4 = (match s.cardType with | .unknown => 0 | .standardCapacity => 1 | .highCapacity => 2) ∧
    v.getLsbD 2 = s.crcTableValid ∧ v.getLsbD 3 = s.cs ∧ v.toNat / 16 = 0

/-! ### The CRC-7 engine (R120 to R125) -/

/-- R122, the three table invariants, and that CRC_EXTEND from 0 reads the entry of its byte. -/
def Obligations.TableEntriesAreCrc7AndLinear : Prop :=
  (∀ i : Byte, crcTableEntry i = (crc7 [i]).setWidth 8 ∧ (crcTableEntry i).toNat < 0x80) ∧
  (∀ a b : Byte, crcTableEntry (a ^^^ b) = crcTableEntry a ^^^ crcTableEntry b) ∧
  (∀ b : Byte, crcTableIndex 0#7 b = b)

/-- R121: CRC_BUILD, from any state, leaves every entry at CRC7 of its index and the valid bit set, answers 0x0000, and changes
nothing else. -/
def Obligations.CrcBuildFillsTheTable : Prop :=
  ∀ s : State, ∃ t, exec .crcBuild s = .next t ∧
    (∀ i : Byte, t.tableRead i = some ((crc7 [i]).setWidth 8)) ∧
    t = { s with crcTable := t.crcTable, crcTableValid := true, responses := s.responses ++ [0x0000#16] }

/-- R27: another CRC_BUILD rewrites the same values: the table, as data, does not change. -/
def Obligations.SecondCrcBuildChangesNothing : Prop :=
  ∀ s t : State, s.crcTable.wf = true → exec .crcBuild s = .next t → exec .crcBuild t = .next (t.answer 0x0000#16)

/-- R123: CRC_NOT_READY while the table is not built; else the entry at `((crc << 1)[7:0]) ^ byte`; a read of an entry without a
value, which the invariant rules out, is the fault of I10. -/
def Obligations.CrcExtendLooksTheTableUp : Prop :=
  ∀ (crc : Crc7) (b : Byte) (s : State),
    (s.crcTableValid = false → exec (.crcExtend crc b) s = .next (s.answer 0xE000#16)) ∧
    (∀ v, s.crcTableValid = true → s.tableRead ((crc.setWidth 8 <<< 1) ^^^ b) = some v →
      exec (.crcExtend crc b) s = .next (s.answer (0x00#8 ++ v))) ∧
    (s.crcTableValid = true → s.tableRead ((crc.setWidth 8 <<< 1) ^^^ b) = none →
      exec (.crcExtend crc b) s = .fault .crcEntryWithoutValue)

/-- R124: with a built table, chaining CRC_EXTEND over any bytes from seed 0 computes their CRC7; the rule's example. -/
def Obligations.ChainedCrcExtendComputesCrc7 : Prop :=
  ∀ (bytes : List Byte) (s : State), s.crcTableValid = true →
    (∀ i : Byte, s.tableRead i = some ((crc7 [i]).setWidth 8)) →
    (∃ t, extendChain bytes 0#7 s = .next (crc7 bytes, t)) ∧
    (bytes = [0x40#8, 0x00#8, 0x00#8, 0x00#8, 0x00#8] →
      [1, 2, 3, 4, 5].map (fun k => crc7 (bytes.take k)) = [0x64#7, 0x6D#7, 0x66#7, 0x49#7, 0x4A#7])

/-! ### The command transport (R140 to R150) -/

/-- R140 to R147: SEND_COMMAND of any host byte and argument from any state: its whole link traffic (open sequence, frame, poll,
close or keep; for an ACMD the APP_CMD traffic first, and the short circuit), and its one response. -/
def Obligations.SendCommandFollowsTheTransport : Prop :=
  ∀ (c : Byte) (a : Word32) (s : State), ∃ (es : List LinkEvent) (st : Status) (r : Byte) (u : State),
    exec (.sendCommand c a) s = .next (u.answer (st.code ++ 0#4 ++ r)) ∧ LinkRun s u es ∧ CommandTraffic c a es st r

/-- The thirteen SD commands (R160 to R172): each is the traffic of its code and argument, and the frame of its row is the frame that
code and argument make (R80). -/
def Obligations.SdCommandsSendTheirFrames : Prop :=
  ∀ (n : Word32), ∀ p ∈
      ([(.goIdleState, 0x40#8, 0#32), (.sdSendOpCondLegacy, 0x41#8, 0#32), (.sendIfCond, 0x48#8, 0x1AA#32),
        (.sendCsd, 0x49#8, 0#32), (.sendCid, 0x4A#8, 0#32), (.sendStatus, 0x4D#8, 0#32), (.setBlocklen n, 0x50#8, n),
        (.readSingleBlock n, 0x51#8, n), (.programCsd, 0x5B#8, 0#32), (.lockUnlock, 0x6A#8, 0#32),
        (.appCmd, 0x77#8, 0#32), (.readOcr, 0x7A#8, 0#32),
        (.sdSendOpCond, 0xE9#8, 0x40000000#32)] : List (Instr × Byte × Word32)),
    (encode p.1).word = frameOf (p.2.1.setWidth 6) p.2.2 ∧
    ∀ s : State, ∃ (es : List LinkEvent) (st : Status) (r : Byte) (u : State),
      exec p.1 s = .next (u.answer (st.code ++ 0#4 ++ r)) ∧ LinkRun s u es ∧ CommandTraffic p.2.1 p.2.2 es st r

/-- R146, R147: after an SD command the card is selected exactly for the data-phase commands, whatever the response was. -/
def Obligations.DataPhaseCommandsKeepTheCardSelected : Prop :=
  ∀ (i : Instr) (s t : State), exec i s = .next t →
    (i ∈ [.sendIfCond, .sendCsd, .sendCid, .sendStatus, .programCsd, .lockUnlock, .readOcr] → t.cs = true) ∧
    (∀ a, i = .readSingleBlock a → t.cs = true) ∧
    (i ∈ [.goIdleState, .sdSendOpCondLegacy, .appCmd, .sdSendOpCond] → t.cs = false) ∧
    (∀ n, i = .setBlocklen n → t.cs = false)

/-- R150: the exchange counts of one SEND_COMMAND, with p poll exchanges: 8 + p when the index is in KEEP, 9 + p otherwise; an ACMD
takes 9 + p for its APP_CMD first, and nothing more when that short-circuits. -/
def Obligations.ExchangeCountsOfSendCommand : Prop :=
  ∀ (c : Byte) (a : Word32) (s t : State), exec (.sendCommand c a) s = .next t →
    ∃ es, t.history = s.history ++ es ∧
      (let own := if c.setWidth 6 ∈ ([8#6, 9#6, 10#6, 13#6, 17#6, 27#6, 42#6, 58#6] : List CommandIndex) then 8 else 9
       (c.toNat < 0x80 → ∃ p, 1 ≤ p ∧ p ≤ 10 ∧ xferCount es = own + p) ∧
       (0x80 ≤ c.toNat → ∃ es₅₅ r₅₅ p₅₅, es₅₅ <+: es ∧ PlainCommand 55#6 0#32 es₅₅ r₅₅ ∧ 1 ≤ p₅₅ ∧ p₅₅ ≤ 10 ∧
          xferCount es₅₅ = 9 + p₅₅ ∧
          if 1 < r₅₅.toNat then es = es₅₅ else ∃ p, 1 ≤ p ∧ p ≤ 10 ∧ xferCount es = (9 + p₅₅) + (own + p))) ∧
      (c.toNat < 0x80 → xferCount es ≤ 19) ∧ xferCount es ≤ 38

/-- R78: bit 6 of the host command byte is ignored. -/
def Obligations.CommandByteBit6IsIgnored : Prop :=
  ∀ (c : Byte) (a : Word32) (s : State), exec (.sendCommand (c ^^^ 0x40#8) a) s = exec (.sendCommand c a) s

/-! ### The token receiver and the error-token decoder (R190 to R197) -/

/-- R190, R191: WAIT_TOKEN exchanges 0xFF until another byte comes, at most 100 times, with `cs` as it is; TIMEOUT when every byte
was 0xFF. -/
def Obligations.WaitTokenPollsForAToken : Prop :=
  ∀ s : State, ∃ (polls : List Byte) (t : Byte) (u : State),
    exec .waitToken s = .next (u.answer ((if t = 0xFF#8 then 0x20#8 else 0x00#8) ++ t)) ∧
    PollEnds 100 (fun b => b != 0xFF#8) polls t ∧ LinkRun s u (polls.map (LinkEvent.xfer s.cs 0xFF#8))

/-- R193 to R196: a byte below 0x20 is a data-error token, answered with its flags in bits 4 to 1; every other byte is not. -/
def Obligations.DecodeErrorTokenClassifies : Prop :=
  ∀ (k : Byte) (s : State),
    exec (.decodeErrorToken k) s =
      .next (s.answer (if k.toNat < 0x20 then 0x40#8 ++ BitVec.ofNat 8 (k.toNat / 2 % 16 * 2) else 0x0000#16))

/-! ### INITIALIZE (R210 to R225) -/

/-- The sequencer of R211, run by INITIALIZE, does what the pseudocode of R210 does. -/
def Obligations.SequencerRefinesThePseudocode : Prop :=
  ∀ s : State, s.sequencer = .idle →
    exec .initializeCard s = .next (respondReply (initializeCard 10 s))

/-- INITIALIZE completes from every state, in one of four ways (R213, R216 to R219, R222): its answer, the card type it leaves,
and the chip select it leaves go together. -/
def Obligations.InitializeOutcomes : Prop :=
  ∀ s : State, ∃ t y, exec .initializeCard s = .next t ∧ t.responses = s.responses ++ [y] ∧ t.sequencer = .idle ∧
    (y, t.cardType, t.cs) ∈
      [(0x1000#16, CardType.unknown, false), (0x0000#16, .unknown, true), (0x0001#16, .standardCapacity, false),
       (0x0002#16, .highCapacity, false)]

/-- R212: INITIALIZE first deselects, makes ten dummy exchanges with the card released, and sends GO_IDLE_STATE. -/
def Obligations.InitializeSettlesThenSendsGoIdle : Prop :=
  ∀ s t : State, exec .initializeCard s = .next t →
    ∃ (settle : List Byte) (es rest : List LinkEvent) (r : Byte),
      settle.length = 10 ∧ PlainCommand 0#6 0#32 es r ∧
      t.history = s.history ++ [.desel] ++ settle.map (LinkEvent.xfer false 0xFF#8) ++ es ++ rest

/-- R212 to R219: the whole link traffic of INITIALIZE and the card type it leaves, from what the card answered to each step. -/
def Obligations.InitializeFollowsItsSteps : Prop :=
  ∀ s t : State, exec .initializeCard s = .next t →
    ∃ (settle : List Byte) (attempts : List (List LinkEvent × Byte)) (last : Byte) (rest : List LinkEvent),
      settle.length = 10 ∧ (∀ x ∈ attempts, PlainCommand 0#6 0#32 x.1 x.2) ∧
      PollEnds 16 (fun r => r == 0x01#8) (attempts.map Prod.snd) last ∧
      t.history = s.history ++ [.desel] ++ settle.map (LinkEvent.xfer false 0xFF#8) ++ (attempts.map Prod.fst).flatten ++
        rest ∧
      if last = 0x01#8 then
        ∃ (es₁₆ es₈ tail : List LinkEvent) (r₁₆ r₈ : Byte),
          PlainCommand 16#6 512#32 es₁₆ r₁₆ ∧ PlainCommand 8#6 0x1AA#32 es₈ r₈ ∧ rest = es₁₆ ++ es₈ ++ tail ∧
          if r₈ = 0x01#8 then HighCapacityTraffic tail ∧ t.cardType = .highCapacity
          else
            ∃ (es₅₈ tail' : List LinkEvent) (r₅₈ : Byte), PlainCommand 58#6 0#32 es₅₈ r₅₈ ∧ tail = es₅₈ ++ tail' ∧
              if r₅₈ = 0x01#8 then LegacyTraffic tail' ∧ t.cardType = .standardCapacity
              else (∃ d, tail' = [.xfer true 0xFF#8 d]) ∧ t.cardType = .unknown
      else rest = [] ∧ t.cardType = .unknown

/-- R225: the bounds on the exchanges of INITIALIZE, by outcome. -/
def Obligations.InitializeExchangeBounds : Prop :=
  ∀ s t : State, exec .initializeCard s = .next t →
    ∃ es y, t.history = s.history ++ es ∧ t.responses = s.responses ++ [y] ∧
      (y = 0x1000#16 → 170 ≤ xferCount es ∧ xferCount es ≤ 314) ∧
      (y = 0x0000#16 → 49 ≤ xferCount es ∧ xferCount es ≤ 370) ∧
      (y = 0x0002#16 → 64 ≤ xferCount es ∧ xferCount es ≤ 760356) ∧
      (y = 0x0001#16 → 73 ≤ xferCount es ∧ xferCount es ≤ 380393)

/-- R213: NOT_DETECTED comes after exactly sixteen GO_IDLE_STATE commands, none answered 0x01, and nothing after the last; the card
type is Unknown and the card released. Ten settle exchanges (R212) is the spec's own value of N_SETTLE (R8), entry 10. -/
def Obligations.NotDetectedAfterSixteenAttempts : Prop :=
  ∀ s t : State, exec .initializeCard s = .next t → t.responses = s.responses ++ [0x1000#16] →
    ∃ (settle : List Byte) (attempts : List (List LinkEvent × Byte)),
      settle.length = 10 ∧ attempts.length = 16 ∧
      (∀ x ∈ attempts, PlainCommand 0#6 0#32 x.1 x.2 ∧ x.2 ≠ 0x01#8) ∧
      t.history = s.history ++ [.desel] ++ settle.map (LinkEvent.xfer false 0xFF#8) ++ (attempts.map Prod.fst).flatten ∧
      t.cardType = .unknown ∧ t.cs = false

/-- The source's scenario of R224(a): a card that answers 0xFF to everything is NOT_DETECTED after 314 exchanges. -/
def Obligations.AbsentCardIsNotDetected : Prop :=
  ∀ (s : State) (later : List Byte), s.cardAnswers = List.replicate 314 0xFF#8 ++ later →
    ∃ t es, exec .initializeCard s = .next t ∧ t.responses = s.responses ++ [0x1000#16] ∧ t.cs = false ∧
      t.cardType = .unknown ∧ t.history = s.history ++ es ∧ xferCount es = 314 ∧ t.cardAnswers = later

/-! ### The host's sequences (47_client_sequences) -/

/-- R240(a): host initialization completes from every state, zeroes the four images, clears their valid bits, and leaves the host's
copy of the card type equal to the block's; it ends `Ok`, or `Fail(NotDetected, 0x00)` with the type Unknown. -/
def Obligations.HostInitializeZeroesTheImages : Prop :=
  ∀ s : State, ∃ res t, clientOp .hostInitialize s = .next (res, t) ∧
    t.host.ocr = List.replicate 4 0x00#8 ∧ t.host.csd = List.replicate 16 0x00#8 ∧
    t.host.cid = List.replicate 16 0x00#8 ∧ t.host.stat = List.replicate 2 0x00#8 ∧
    t.host.ocrV = false ∧ t.host.csdV = false ∧ t.host.cidV = false ∧ t.host.statV = false ∧
    t.host.cardType = t.cardType ∧
    (res = .ok ∨ (res = .fail .notDetected (.raw 0x00#8) ∧ t.host.cardType = .unknown))

/-- R241: ReadOCR ends `Ok` exactly when READ_OCR answers 0x00 or 0x01, and the image is then the four bytes after it; the card is
released with a dummy exchange either way. -/
def Obligations.ReadOcrStoresTheFourBytes : Prop :=
  ∀ (s t : State) (res : ClientResult), clientOp .readOcr s = .next (res, t) →
    ∃ (es : List LinkEvent) (r d : Byte), PlainCommand 58#6 0#32 es r ∧
      if r.toNat ≤ 1 then
        res = .ok ∧ t.host.ocr.length = 4 ∧ t.host.ocrV = true ∧
          t.history = s.history ++ es ++ t.host.ocr.map (LinkEvent.xfer true 0xFF#8) ++ [.desel, .xfer false 0xFF#8 d]
      else
        res = .fail (if 0x80 ≤ r.toNat then .timeout else .protocolError) (.raw r) ∧
          t.history = s.history ++ es ++ [.desel, .xfer false 0xFF#8 d]

/-- R244: ReadCardStatus ends `Ok` exactly when SEND_STATUS gets a response, and the image is then the R1 byte and the byte after it,
with no token; the card is released with a dummy exchange either way. -/
def Obligations.ReadCardStatusStoresTheTwoBytes : Prop :=
  ∀ (s t : State) (res : ClientResult), clientOp .readCardStatus s = .next (res, t) →
    ∃ (es : List LinkEvent) (r d : Byte), PlainCommand 13#6 0#32 es r ∧
      if r.toNat < 0x80 then
        ∃ b, res = .ok ∧ t.host.stat = [r, b] ∧ t.host.statV = true ∧
          t.history = s.history ++ es ++ [.xfer true 0xFF#8 b, .desel, .xfer false 0xFF#8 d]
      else res = .fail .timeout (.raw r) ∧ t.history = s.history ++ es ++ [.desel, .xfer false 0xFF#8 d]

/-- R248: a read that waited for a start token and did not get it fails with the byte it received last, at the end of the traffic
before `Close()`: Timeout for 0xFF, DataError with its flags for a byte below 0x20, ProtocolError otherwise. -/
def Obligations.TokenFailureIsClassified : Prop :=
  ∀ (op : ClientOp) (s t : State) (kind : ErrorKind) (detail : FailDetail),
    (∃ which, op = .readRegister which) ∨ (∃ n, op = .readBlock n) →
    clientOp op s = .next (.fail kind detail, t) →
    ∃ (before : List LinkEvent) (b d : Byte),
      t.history = s.history ++ before ++ [.xfer true 0xFF#8 b, .desel, .xfer false 0xFF#8 d] ∧
      detail = .raw b ∧ b ≠ 0xFE#8 ∧
      kind = (if b = 0xFF#8 then .timeout else if b.toNat < 0x20 then .dataError (b &&& 0x1E#8) else .protocolError)

/-- R246, R247: ReadBlock refuses an Unknown card and a standard-capacity block number of 2^23 or more; otherwise it completes, and
READ_SINGLE_BLOCK's frame carries the raw block number for a high-capacity card and 512 times it for a standard-capacity one. -/
def Obligations.ReadBlockAddressesByCapacity : Prop :=
  ∀ (n : Word32) (s : State),
    (s.host.cardType = .unknown → clientOp (.readBlock n) s = .refused .readBlockUnknownType) ∧
    (s.host.cardType = .standardCapacity → 2 ^ 23 ≤ n.toNat →
      clientOp (.readBlock n) s = .refused .readBlockAddressOverflow) ∧
    (s.host.cardType = .highCapacity ∨ (s.host.cardType = .standardCapacity ∧ n.toNat < 2 ^ 23) →
      ∃ res t es rest r address, clientOp (.readBlock n) s = .next (res, t) ∧
        PlainCommand 17#6 address es r ∧ t.history = s.history ++ es ++ rest ∧
        address.toNat = if s.host.cardType = .highCapacity then n.toNat else n.toNat * 512)

/-- R240(d), R245: an image whose valid bit is 0, and the locked predicate without a valid status, have no value: the machine
faults; with a valid bit they have the image's bytes and bit 0 of the second status byte. -/
def Obligations.InvalidImagesFault : Prop :=
  ∀ s : State,
    (∀ which, clientOp (.useImage which) s =
      if s.host.valid which then .next (.image (s.host.image which), s) else .fault (.imageWithoutValue which)) ∧
    (s.host.statV = false → clientOp .queryLocked s = .fault (.imageWithoutValue .stat)) ∧
    (∀ s₀ s₁ : Byte, s.host.statV = true → s.host.stat = [s₀, s₁] →
      clientOp .queryLocked s = .next (.locked (s₁.getLsbD 0), s))

/-- R240(c): every client operation that ends `Fail` leaves all four valid bits 0. -/
def Obligations.FailureInvalidatesEveryImage : Prop :=
  ∀ (op : ClientOp) (s t : State) (kind : ErrorKind) (detail : FailDetail),
    clientOp op s = .next (.fail kind detail, t) →
    t.host.ocrV = false ∧ t.host.csdV = false ∧ t.host.cidV = false ∧ t.host.statV = false

/-- R242, R243: ReadCSD sends SEND_CSD and ReadCID sends SEND_CID; they end `Ok` only after a start token, and the image is the sixteen
bytes after it; two more bytes are read and not checked, and the card is released with a dummy exchange. -/
def Obligations.RegisterReadStoresTheSixteenBytes : Prop :=
  ∀ (which : TokenRegister) (s t : State), clientOp (.readRegister which) s = .next (.ok, t) →
    ∃ (es : List LinkEvent) (r : Byte) (polls : List Byte) (c₁ c₂ d : Byte),
      PlainCommand (match which with | .csd => 9#6 | .cid => 10#6) 0#32 es r ∧
      PollEnds 100 (fun b => b != 0xFF#8) polls 0xFE#8 ∧
      t.history = s.history ++ es ++ polls.map (LinkEvent.xfer true 0xFF#8) ++
        (t.host.image which.image).map (LinkEvent.xfer true 0xFF#8) ++
        [.xfer true 0xFF#8 c₁, .xfer true 0xFF#8 c₂, .desel, .xfer false 0xFF#8 d] ∧
      (t.host.image which.image).length = 16 ∧ t.host.valid which.image = true

/-- R257 to R260, R252: when LOCK_UNLOCK is accepted, ModifyPassword drives the start token, 512 payload bytes (the low three bits of the
mask, the length, the password bytes, 0xFF filler) and two bytes 0xFF; then the busy polls and the release, and it ends as the
busy polls say. It completes from every state. -/
def Obligations.ModifyPasswordDrivesTheWholePayload : Prop :=
  ∀ (bytes : Vector Byte 16) (length : Fin 17) (mask : Byte) (s : State),
    ∃ (res : ClientResult) (t : State) (es rest : List LinkEvent) (r : Byte),
      modifyPasswordWith bytes length mask s = .next (res, t) ∧
      PlainCommand 42#6 0#32 es r ∧ t.history = s.history ++ es ++ rest ∧
      if r = 0x00#8 then
        ∃ (payload : List Byte) (sent busy : List LinkEvent),
          payload.length = 512 ∧ payload.take 2 = [mask &&& 0x07#8, BitVec.ofNat 8 length.val] ∧
          (payload.drop 2).take length.val = bytes.toList.take length.val ∧
          payload.drop (2 + length.val) = List.replicate (510 - length.val) 0xFF#8 ∧
          rest = sent ++ busy ∧ drivenBytes sent = [0xFE#8] ++ payload ++ [0xFF#8, 0xFF#8] ∧ BusyTraffic busy res
      else RejectedTraffic r rest res

/-- R261: when LOCK_UNLOCK is accepted, ForceErase drives the start token and one erase mask byte, releases the card, and nothing
else; SET_BLOCKLEN(1) goes first. -/
def Obligations.ForceEraseDrivesOneMaskByte : Prop :=
  ∀ (s t : State) (res : ClientResult), clientOp .forceErase s = .next (res, t) →
    ∃ (es₁ es₂ rest : List LinkEvent) (r₁ r₂ : Byte),
      PlainCommand 16#6 1#32 es₁ r₁ ∧ PlainCommand 42#6 0#32 es₂ r₂ ∧ t.history = s.history ++ es₁ ++ es₂ ++ rest ∧
      drivenBytes rest = (if r₂ = 0x00#8 then [0xFE#8, 0x08#8] else []) ++ [0xFF#8] ∧ (res = .ok ↔ r₂ = 0x00#8)

/-- R250, R252, R255: SetTemporaryLock, with the CRC table built, reads the CSD; after a start token it sends PROGRAM_CSD, and when that is
accepted it drives the start token, the CSD bytes 0 to 14 as read but for bit 4 of byte 14, their CRC7 as `(crc << 1) | 1`, and two
bytes 0xFF; then the busy polls and the release, and it ends as the busy polls say, with `csd_v` = 0. It completes from every state that
meets the invariant. -/
def Obligations.TemporaryLockSendsTheCrcOfTheModifiedCsd : Prop :=
  ∀ (locked : Bool) (s : State), s.Inv → s.crcTableValid = true →
    ∃ (res : ClientResult) (t : State) (es₉ rest : List LinkEvent) (r₉ token : Byte) (polls : List Byte),
      clientOp (.setTemporaryLock locked) s = .next (res, t) ∧
      PlainCommand 9#6 0#32 es₉ r₉ ∧ PollEnds 100 (fun b => b != 0xFF#8) polls token ∧
      t.history = s.history ++ es₉ ++ polls.map (LinkEvent.xfer true 0xFF#8) ++ rest ∧
      if token = 0xFE#8 then
        ∃ (c : List Byte) (c₁ c₂ d : Byte) (es₂₇ write : List LinkEvent) (r₂₇ : Byte),
          c.length = 16 ∧ PlainCommand 27#6 0#32 es₂₇ r₂₇ ∧
          rest = c.map (LinkEvent.xfer true 0xFF#8) ++
            [.xfer true 0xFF#8 c₁, .xfer true 0xFF#8 c₂, .desel, .xfer false 0xFF#8 d] ++ es₂₇ ++ write ∧
          if r₂₇ = 0x00#8 then
            ∃ (csd : List Byte) (sent busy : List LinkEvent),
              csd.length = 15 ∧ csd.take 14 = c.take 14 ∧
              csd.getD 14 0x00#8 = (if locked then c.getD 14 0x00#8 ||| 0x10#8 else c.getD 14 0x00#8 &&& 0xEF#8) ∧
              write = sent ++ busy ∧
              drivenBytes sent = [0xFE#8] ++ csd ++ [(crc7 csd).setWidth 8 <<< 1 ||| 1#8, 0xFF#8, 0xFF#8] ∧
              BusyTraffic busy res ∧ t.host.csdV = false
          else RejectedTraffic r₂₇ write res
      else (∃ d, rest = [.desel, .xfer false 0xFF#8 d]) ∧ ∃ kind detail, res = .fail kind detail

/-- R263: an action completes from every state, as one or two rounds of the operation and a status read. It ends `Ok` after the first
round whose status read succeeded and shows the wanted lock state, and `Fail(ProtocolError, "not achieved")` only when neither
did, whatever the operation itself answered. -/
def Obligations.DoubleAttemptEndsAsTheStatusSays : Prop :=
  ∀ (action : LockAction) (s : State),
    let op : ClientOp := match action with
      | .lock => .modifyPassword 0x04#8
      | .unlock => .modifyPassword 0x00#8
      | .forceErase => .forceErase
    let achieved (q : ClientResult) (u : State) : Prop :=
      q = .ok ∧ u.host.statV = true ∧
        (u.host.stat.getD 1 0#8).getLsbD 0 = (match action with | .lock => true | .unlock => false | .forceErase => false)
    ∃ (res q₁ r₁ : ClientResult) (s₁ t₁ t : State),
      clientOp (.attempt action) s = .next (res, t) ∧
      clientOp op s = .next (r₁, s₁) ∧ clientOp .readCardStatus s₁ = .next (q₁, t₁) ∧
      (achieved q₁ t₁ → res = .ok ∧ t = t₁) ∧
      (¬ achieved q₁ t₁ → ∃ (q₂ r₂ : ClientResult) (s₂ t₂ : State),
        clientOp op t₁ = .next (r₂, s₂) ∧ clientOp .readCardStatus s₂ = .next (q₂, t₂) ∧ t.history = t₂.history ∧
        (achieved q₂ t₂ → res = .ok) ∧ (¬ achieved q₂ t₂ → res = .fail .protocolError .notAchieved))

/-- R264, R265: a user action initializes the card first: whatever it does on the link comes after the traffic of a host
initialization; when the card is not detected, that is reported and the operation is not run. -/
def Obligations.DispatcherInitializesFirst : Prop :=
  ∀ (action : UserAction) (s : State),
    ∃ t, clientOp .hostInitialize s = .next t ∧
      (∀ u, dispatch action s = .next u → t.2.history <+: u.history) ∧
      (∀ kind detail, t.1 = .fail kind detail →
        ∃ u, dispatch action s = .next u ∧ u.history = t.2.history ∧ u.host.reports = t.2.host.reports ++ [.notDetected])

/-- R246: ReadBlock, where it is not refused, sends READ_SINGLE_BLOCK with the address of the card type and waits for a token; after a
start token the block buffer is the 512 bytes that follow, two more bytes are read and not checked, and it ends `Ok`; after any
other byte the buffer is zero and it fails. The card is released with a dummy exchange either way. -/
def Obligations.ReadBlockStoresTheBlock : Prop :=
  ∀ (n : Word32) (s t : State) (res : ClientResult), clientOp (.readBlock n) s = .next (res, t) →
    ∃ (address : Word32) (es rest : List LinkEvent) (r token : Byte) (polls : List Byte),
      address.toNat = (if s.host.cardType = .highCapacity then n.toNat else n.toNat * 512) ∧
      PlainCommand 17#6 address es r ∧ PollEnds 100 (fun b => b != 0xFF#8) polls token ∧
      t.history = s.history ++ es ++ polls.map (LinkEvent.xfer true 0xFF#8) ++ rest ∧ t.host.blk.length = 512 ∧
      if token = 0xFE#8 then
        res = .ok ∧ ∃ c₁ c₂ d, rest = t.host.blk.map (LinkEvent.xfer true 0xFF#8) ++
          [.xfer true 0xFF#8 c₁, .xfer true 0xFF#8 c₂, .desel, .xfer false 0xFF#8 d]
      else
        t.host.blk = List.replicate 512 0x00#8 ∧ (∃ d, rest = [.desel, .xfer false 0xFF#8 d]) ∧
          ∃ kind detail, res = .fail kind detail
end

