-- ==== Sys2Proof/Laws/State.lean ====
section
/-!
SUPPORT. One lemma per field per update of State, so that no later proof unfolds a record update.
-/
namespace Sys2Proof.Machine

variable (s : State)

/-! ### `setCs` -/

@[simp] theorem State.setCs_cs (v : Bool) : (s.setCs v).cs = v := rfl
@[simp] theorem State.setCs_cardType (v : Bool) : (s.setCs v).cardType = s.cardType := rfl
@[simp] theorem State.setCs_crcTable (v : Bool) : (s.setCs v).crcTable = s.crcTable := rfl
@[simp] theorem State.setCs_crcTableValid (v : Bool) : (s.setCs v).crcTableValid = s.crcTableValid := rfl
@[simp] theorem State.setCs_sequencer (v : Bool) : (s.setCs v).sequencer = s.sequencer := rfl
@[simp] theorem State.setCs_history (v : Bool) : (s.setCs v).history = s.history := rfl
@[simp] theorem State.setCs_responses (v : Bool) : (s.setCs v).responses = s.responses := rfl
@[simp] theorem State.setCs_work (v : Bool) : (s.setCs v).work = s.work := rfl
@[simp] theorem State.setCs_cardAnswers (v : Bool) : (s.setCs v).cardAnswers = s.cardAnswers := rfl
@[simp] theorem State.setCs_drawn (v : Bool) : (s.setCs v).drawn = s.drawn := rfl
@[simp] theorem State.setCs_host (v : Bool) : (s.setCs v).host = s.host := rfl

/-! ### `setCardType` -/

@[simp] theorem State.setCardType_cs (v : CardType) : (s.setCardType v).cs = s.cs := rfl
@[simp] theorem State.setCardType_cardType (v : CardType) : (s.setCardType v).cardType = v := rfl
@[simp] theorem State.setCardType_crcTable (v : CardType) : (s.setCardType v).crcTable = s.crcTable := rfl
@[simp] theorem State.setCardType_crcTableValid (v : CardType) : (s.setCardType v).crcTableValid = s.crcTableValid := rfl
@[simp] theorem State.setCardType_sequencer (v : CardType) : (s.setCardType v).sequencer = s.sequencer := rfl
@[simp] theorem State.setCardType_history (v : CardType) : (s.setCardType v).history = s.history := rfl
@[simp] theorem State.setCardType_responses (v : CardType) : (s.setCardType v).responses = s.responses := rfl
@[simp] theorem State.setCardType_work (v : CardType) : (s.setCardType v).work = s.work := rfl
@[simp] theorem State.setCardType_cardAnswers (v : CardType) : (s.setCardType v).cardAnswers = s.cardAnswers := rfl
@[simp] theorem State.setCardType_drawn (v : CardType) : (s.setCardType v).drawn = s.drawn := rfl
@[simp] theorem State.setCardType_host (v : CardType) : (s.setCardType v).host = s.host := rfl

/-! ### `setCrcTable` -/

@[simp] theorem State.setCrcTable_cs (v : Memory) : (s.setCrcTable v).cs = s.cs := rfl
@[simp] theorem State.setCrcTable_cardType (v : Memory) : (s.setCrcTable v).cardType = s.cardType := rfl
@[simp] theorem State.setCrcTable_crcTable (v : Memory) : (s.setCrcTable v).crcTable = v := rfl
@[simp] theorem State.setCrcTable_crcTableValid (v : Memory) : (s.setCrcTable v).crcTableValid = s.crcTableValid := rfl
@[simp] theorem State.setCrcTable_sequencer (v : Memory) : (s.setCrcTable v).sequencer = s.sequencer := rfl
@[simp] theorem State.setCrcTable_history (v : Memory) : (s.setCrcTable v).history = s.history := rfl
@[simp] theorem State.setCrcTable_responses (v : Memory) : (s.setCrcTable v).responses = s.responses := rfl
@[simp] theorem State.setCrcTable_work (v : Memory) : (s.setCrcTable v).work = s.work := rfl
@[simp] theorem State.setCrcTable_cardAnswers (v : Memory) : (s.setCrcTable v).cardAnswers = s.cardAnswers := rfl
@[simp] theorem State.setCrcTable_drawn (v : Memory) : (s.setCrcTable v).drawn = s.drawn := rfl
@[simp] theorem State.setCrcTable_host (v : Memory) : (s.setCrcTable v).host = s.host := rfl

/-! ### `setCrcTableValid` -/

@[simp] theorem State.setCrcTableValid_cs (v : Bool) : (s.setCrcTableValid v).cs = s.cs := rfl
@[simp] theorem State.setCrcTableValid_cardType (v : Bool) : (s.setCrcTableValid v).cardType = s.cardType := rfl
@[simp] theorem State.setCrcTableValid_crcTable (v : Bool) : (s.setCrcTableValid v).crcTable = s.crcTable := rfl
@[simp] theorem State.setCrcTableValid_crcTableValid (v : Bool) : (s.setCrcTableValid v).crcTableValid = v := rfl
@[simp] theorem State.setCrcTableValid_sequencer (v : Bool) : (s.setCrcTableValid v).sequencer = s.sequencer := rfl
@[simp] theorem State.setCrcTableValid_history (v : Bool) : (s.setCrcTableValid v).history = s.history := rfl
@[simp] theorem State.setCrcTableValid_responses (v : Bool) : (s.setCrcTableValid v).responses = s.responses := rfl
@[simp] theorem State.setCrcTableValid_work (v : Bool) : (s.setCrcTableValid v).work = s.work := rfl
@[simp] theorem State.setCrcTableValid_cardAnswers (v : Bool) : (s.setCrcTableValid v).cardAnswers = s.cardAnswers := rfl
@[simp] theorem State.setCrcTableValid_drawn (v : Bool) : (s.setCrcTableValid v).drawn = s.drawn := rfl
@[simp] theorem State.setCrcTableValid_host (v : Bool) : (s.setCrcTableValid v).host = s.host := rfl

/-! ### `setSequencer` -/

@[simp] theorem State.setSequencer_cs (v : Sequencer) : (s.setSequencer v).cs = s.cs := rfl
@[simp] theorem State.setSequencer_cardType (v : Sequencer) : (s.setSequencer v).cardType = s.cardType := rfl
@[simp] theorem State.setSequencer_crcTable (v : Sequencer) : (s.setSequencer v).crcTable = s.crcTable := rfl
@[simp] theorem State.setSequencer_crcTableValid (v : Sequencer) : (s.setSequencer v).crcTableValid = s.crcTableValid := rfl
@[simp] theorem State.setSequencer_sequencer (v : Sequencer) : (s.setSequencer v).sequencer = v := rfl
@[simp] theorem State.setSequencer_history (v : Sequencer) : (s.setSequencer v).history = s.history := rfl
@[simp] theorem State.setSequencer_responses (v : Sequencer) : (s.setSequencer v).responses = s.responses := rfl
@[simp] theorem State.setSequencer_work (v : Sequencer) : (s.setSequencer v).work = s.work := rfl
@[simp] theorem State.setSequencer_cardAnswers (v : Sequencer) : (s.setSequencer v).cardAnswers = s.cardAnswers := rfl
@[simp] theorem State.setSequencer_drawn (v : Sequencer) : (s.setSequencer v).drawn = s.drawn := rfl
@[simp] theorem State.setSequencer_host (v : Sequencer) : (s.setSequencer v).host = s.host := rfl

/-! ### `record` -/

@[simp] theorem State.record_cs (e : LinkEvent) : (s.record e).cs = s.cs := rfl
@[simp] theorem State.record_cardType (e : LinkEvent) : (s.record e).cardType = s.cardType := rfl
@[simp] theorem State.record_crcTable (e : LinkEvent) : (s.record e).crcTable = s.crcTable := rfl
@[simp] theorem State.record_crcTableValid (e : LinkEvent) : (s.record e).crcTableValid = s.crcTableValid := rfl
@[simp] theorem State.record_sequencer (e : LinkEvent) : (s.record e).sequencer = s.sequencer := rfl
@[simp] theorem State.record_history (e : LinkEvent) : (s.record e).history = s.history ++ [e] := rfl
@[simp] theorem State.record_responses (e : LinkEvent) : (s.record e).responses = s.responses := rfl
@[simp] theorem State.record_work (e : LinkEvent) : (s.record e).work = s.work := rfl
@[simp] theorem State.record_cardAnswers (e : LinkEvent) : (s.record e).cardAnswers = s.cardAnswers := rfl
@[simp] theorem State.record_drawn (e : LinkEvent) : (s.record e).drawn = s.drawn := rfl
@[simp] theorem State.record_host (e : LinkEvent) : (s.record e).host = s.host := rfl

/-! ### `answer` -/

@[simp] theorem State.answer_cs (y : ResponseWord) : (s.answer y).cs = s.cs := rfl
@[simp] theorem State.answer_cardType (y : ResponseWord) : (s.answer y).cardType = s.cardType := rfl
@[simp] theorem State.answer_crcTable (y : ResponseWord) : (s.answer y).crcTable = s.crcTable := rfl
@[simp] theorem State.answer_crcTableValid (y : ResponseWord) : (s.answer y).crcTableValid = s.crcTableValid := rfl
@[simp] theorem State.answer_sequencer (y : ResponseWord) : (s.answer y).sequencer = s.sequencer := rfl
@[simp] theorem State.answer_history (y : ResponseWord) : (s.answer y).history = s.history := rfl
@[simp] theorem State.answer_responses (y : ResponseWord) : (s.answer y).responses = s.responses ++ [y] := rfl
@[simp] theorem State.answer_work (y : ResponseWord) : (s.answer y).work = s.work := rfl
@[simp] theorem State.answer_cardAnswers (y : ResponseWord) : (s.answer y).cardAnswers = s.cardAnswers := rfl
@[simp] theorem State.answer_drawn (y : ResponseWord) : (s.answer y).drawn = s.drawn := rfl
@[simp] theorem State.answer_host (y : ResponseWord) : (s.answer y).host = s.host := rfl

/-! ### `setWork` -/

@[simp] theorem State.setWork_cs (v : List WorkItem) : (s.setWork v).cs = s.cs := rfl
@[simp] theorem State.setWork_cardType (v : List WorkItem) : (s.setWork v).cardType = s.cardType := rfl
@[simp] theorem State.setWork_crcTable (v : List WorkItem) : (s.setWork v).crcTable = s.crcTable := rfl
@[simp] theorem State.setWork_crcTableValid (v : List WorkItem) : (s.setWork v).crcTableValid = s.crcTableValid := rfl
@[simp] theorem State.setWork_sequencer (v : List WorkItem) : (s.setWork v).sequencer = s.sequencer := rfl
@[simp] theorem State.setWork_history (v : List WorkItem) : (s.setWork v).history = s.history := rfl
@[simp] theorem State.setWork_responses (v : List WorkItem) : (s.setWork v).responses = s.responses := rfl
@[simp] theorem State.setWork_work (v : List WorkItem) : (s.setWork v).work = v := rfl
@[simp] theorem State.setWork_cardAnswers (v : List WorkItem) : (s.setWork v).cardAnswers = s.cardAnswers := rfl
@[simp] theorem State.setWork_drawn (v : List WorkItem) : (s.setWork v).drawn = s.drawn := rfl
@[simp] theorem State.setWork_host (v : List WorkItem) : (s.setWork v).host = s.host := rfl

/-! ### `drawByte` -/

@[simp] theorem State.drawByte_cs : (s.drawByte).cs = s.cs := rfl
@[simp] theorem State.drawByte_cardType : (s.drawByte).cardType = s.cardType := rfl
@[simp] theorem State.drawByte_crcTable : (s.drawByte).crcTable = s.crcTable := rfl
@[simp] theorem State.drawByte_crcTableValid : (s.drawByte).crcTableValid = s.crcTableValid := rfl
@[simp] theorem State.drawByte_sequencer : (s.drawByte).sequencer = s.sequencer := rfl
@[simp] theorem State.drawByte_history : (s.drawByte).history = s.history := rfl
@[simp] theorem State.drawByte_responses : (s.drawByte).responses = s.responses := rfl
@[simp] theorem State.drawByte_work : (s.drawByte).work = s.work := rfl
@[simp] theorem State.drawByte_cardAnswers : (s.drawByte).cardAnswers = s.cardAnswers.tail := rfl
@[simp] theorem State.drawByte_drawn : (s.drawByte).drawn = s.drawn + 1 := rfl
@[simp] theorem State.drawByte_host : (s.drawByte).host = s.host := rfl

/-! ### `setHost` -/

@[simp] theorem State.setHost_cs (v : ClientState) : (s.setHost v).cs = s.cs := rfl
@[simp] theorem State.setHost_cardType (v : ClientState) : (s.setHost v).cardType = s.cardType := rfl
@[simp] theorem State.setHost_crcTable (v : ClientState) : (s.setHost v).crcTable = s.crcTable := rfl
@[simp] theorem State.setHost_crcTableValid (v : ClientState) : (s.setHost v).crcTableValid = s.crcTableValid := rfl
@[simp] theorem State.setHost_sequencer (v : ClientState) : (s.setHost v).sequencer = s.sequencer := rfl
@[simp] theorem State.setHost_history (v : ClientState) : (s.setHost v).history = s.history := rfl
@[simp] theorem State.setHost_responses (v : ClientState) : (s.setHost v).responses = s.responses := rfl
@[simp] theorem State.setHost_work (v : ClientState) : (s.setHost v).work = s.work := rfl
@[simp] theorem State.setHost_cardAnswers (v : ClientState) : (s.setHost v).cardAnswers = s.cardAnswers := rfl
@[simp] theorem State.setHost_drawn (v : ClientState) : (s.setHost v).drawn = s.drawn := rfl
@[simp] theorem State.setHost_host (v : ClientState) : (s.setHost v).host = v := rfl

end Sys2Proof.Machine
end

