-- ==== Sys2Proof/Laws/Blind.lean ====
section
/-!
SUPPORT. The link operations look only at the link: a change of the other fields passes through each of them.
-/
namespace Sys2Proof.Machine

/-- A change of the state that the link operations neither see nor undo. -/
structure LinkBlind (φ : State → State) : Prop where
  exchange : ∀ out s, exchange out (φ s) = ((exchange out s).1, φ (exchange out s).2)
  select : ∀ s, select (φ s) = φ (select s)
  deselect : ∀ s, deselect (φ s) = φ (deselect s)

theorem linkBlind_setSequencer (q : Sequencer) : LinkBlind (·.setSequencer q) := ⟨fun _ _ => rfl, fun _ => rfl, fun _ => rfl⟩

theorem linkBlind_setCardType (c : CardType) : LinkBlind (·.setCardType c) := ⟨fun _ _ => rfl, fun _ => rfl, fun _ => rfl⟩

/-- What is not block state (R31). -/
theorem linkBlind_outside (h : ClientState) (w : List WorkItem) (ys : List ResponseWord) :
    LinkBlind (fun s => { s with host := h, work := w, responses := ys }) :=
  ⟨fun _ _ => rfl, fun _ => rfl, fun _ => rfl⟩

variable {φ : State → State} (hφ : LinkBlind φ)
include hφ

theorem LinkBlind.dummy (s : State) : dummy (φ s) = φ (dummy s) := by simp [Machine.dummy, hφ.exchange]

theorem LinkBlind.sendBytes (bs : List Byte) (s : State) : sendBytes bs (φ s) = φ (sendBytes bs s) := by
  induction bs generalizing s with
  | nil => rfl
  | cons b bs ih => simp only [Machine.sendBytes, hφ.exchange, ih]

theorem LinkBlind.dummies (n : Nat) (s : State) : dummies n (φ s) = φ (dummies n s) := hφ.sendBytes _ s

omit hφ in
theorem repeatUntil_blind {α : Type} {body : State → α × State} (stop : α → Bool)
    (hbody : ∀ s, body (φ s) = ((body s).1, φ (body s).2)) (extra : Nat) (s : State) :
    repeatUntil body stop extra (φ s) = ((repeatUntil body stop extra s).1, φ (repeatUntil body stop extra s).2) := by
  induction extra generalizing s with
  | zero => exact hbody s
  | succ n ih =>
    simp only [Machine.repeatUntil, hbody, ih]
    split <;> rfl

omit hφ in
theorem repeatWithin_blind {α : Type} {body : State → α × State} (stop : α → Bool)
    (hbody : ∀ s, body (φ s) = ((body s).1, φ (body s).2)) (limit : Nat) (s : State) :
    repeatWithin limit body stop (φ s) = ((repeatWithin limit body stop s).1, φ (repeatWithin limit body stop s).2) :=
  repeatUntil_blind stop hbody _ s

theorem LinkBlind.openSequence (s : State) : openSequence (φ s) = φ (openSequence s) := by
  simp only [Machine.openSequence, hφ.deselect, hφ.dummy, hφ.select]

theorem LinkBlind.closeSequence (s : State) : closeSequence (φ s) = φ (closeSequence s) := by
  simp only [Machine.closeSequence, hφ.deselect, hφ.dummy]

theorem LinkBlind.pollResponse (s : State) : pollResponse (φ s) = ((pollResponse s).1, φ (pollResponse s).2) :=
  repeatWithin_blind _ (hφ.exchange _) _ s

theorem LinkBlind.transact (idx : CommandIndex) (argument : Word32) (s : State) :
    transact idx argument (φ s) = ((transact idx argument s).1, φ (transact idx argument s).2) := by
  simp only [Machine.transact, hφ.openSequence, hφ.sendBytes, hφ.pollResponse, hφ.closeSequence]
  split <;> rfl

theorem LinkBlind.sendPlain (idx : CommandIndex) (argument : Word32) (s : State) :
    sendPlain idx argument (φ s) = ((sendPlain idx argument s).1, φ (sendPlain idx argument s).2) := by
  simp only [Machine.sendPlain, hφ.transact]

theorem LinkBlind.sendCommand (command : Byte) (argument : Word32) (s : State) :
    sendCommand command argument (φ s) =
      ((sendCommand command argument s).1, φ (sendCommand command argument s).2) := by
  simp only [Machine.sendCommand, hφ.sendPlain]
  split
  · split <;> rfl
  · rfl

theorem LinkBlind.waitForToken (s : State) : waitForToken (φ s) = ((waitForToken s).1, φ (waitForToken s).2) := by
  simp only [Machine.waitForToken, repeatWithin_blind _ (hφ.exchange _)]

theorem LinkBlind.powerSettle (n : Nat) (s : State) : powerSettle n (φ s) = φ (powerSettle n s) := by
  simp only [Machine.powerSettle, hφ.deselect, hφ.dummies]

theorem LinkBlind.idleHandshake (s : State) : idleHandshake (φ s) = ((idleHandshake s).1, φ (idleHandshake s).2) :=
  repeatWithin_blind _ (hφ.sendCommand _ _) _ s

theorem LinkBlind.setBlockLength (s : State) : setBlockLength (φ s) = φ (setBlockLength s) := by
  simp only [Machine.setBlockLength, hφ.sendCommand]

theorem LinkBlind.probeIfCond (s : State) : probeIfCond (φ s) = ((probeIfCond s).1, φ (probeIfCond s).2) :=
  hφ.sendCommand _ _ s

theorem LinkBlind.probeOcr (s : State) : probeOcr (φ s) = ((probeOcr s).1, φ (probeOcr s).2) :=
  hφ.sendCommand _ _ s

end Sys2Proof.Machine
end

