-- ==== Sys2Proof/Laws/Response.lean ====
section
/-!
SUPPORT. The fields of a response word, and what responding does.
-/
namespace Sys2Proof.Machine

@[simp] theorem statusField_responseWord (st : Status) (v : Byte) : statusField (responseWord st v) = st.code := by
  apply BitVec.eq_of_getLsbD_eq
  intro i hi
  simp only [statusField, responseWord, BitVec.getLsbD_extractLsb', BitVec.getLsbD_append]
  simp [hi, show ¬ 12 + i < 8 by omega, show ¬ 12 + i - 8 < 4 by omega, show 12 + i - 8 - 4 = i by omega]

@[simp] theorem reservedField_responseWord (st : Status) (v : Byte) : reservedField (responseWord st v) = 0#4 := by
  apply BitVec.eq_of_getLsbD_eq
  intro i hi
  simp only [reservedField, responseWord, BitVec.getLsbD_extractLsb', BitVec.getLsbD_append]
  simp [hi]

@[simp] theorem valueField_responseWord (st : Status) (v : Byte) : valueField (responseWord st v) = v := by
  apply BitVec.eq_of_getLsbD_eq
  intro i hi
  simp only [valueField, responseWord, BitVec.getLsbD_extractLsb', BitVec.getLsbD_append]
  simp [hi]

/-- A code stands for one status (R76). -/
theorem Status.code_injective {st st' : Status} (h : st.code = st'.code) : st = st' := by
  cases st <;> cases st' <;> first | rfl | (revert h; decide)

/-- Responding appends the response word and changes nothing else. -/
theorem respond_eq (st : Status) (v : Byte) (s : State) :
    respond st v s = { s with responses := s.responses ++ [responseWord st v] } := rfl

end Sys2Proof.Machine
end

