-- ==== Sys2Proof/Laws/Link.lean ====
section
/-!
SUPPORT. Everything a link operation can do, as the traffic it adds (`LinkRun`): one lemma per primitive of Ops, and composition.
-/
namespace Sys2Proof.Machine

/-! ### Traffic -/

@[simp] theorem drivenBytes_nil : drivenBytes [] = [] := rfl
@[simp] theorem drivenBytes_sel (es : List LinkEvent) : drivenBytes (.sel :: es) = drivenBytes es := rfl
@[simp] theorem drivenBytes_desel (es : List LinkEvent) : drivenBytes (.desel :: es) = drivenBytes es := rfl
@[simp] theorem drivenBytes_xfer (c : Bool) (o r : Byte) (es : List LinkEvent) :
    drivenBytes (.xfer c o r :: es) = o :: drivenBytes es := rfl
@[simp] theorem drivenBytes_append (es fs : List LinkEvent) :
    drivenBytes (es ++ fs) = drivenBytes es ++ drivenBytes fs := List.filterMap_append

@[simp] theorem receivedBytes_nil : receivedBytes [] = [] := rfl
@[simp] theorem receivedBytes_sel (es : List LinkEvent) : receivedBytes (.sel :: es) = receivedBytes es := rfl
@[simp] theorem receivedBytes_desel (es : List LinkEvent) : receivedBytes (.desel :: es) = receivedBytes es := rfl
@[simp] theorem receivedBytes_xfer (c : Bool) (o r : Byte) (es : List LinkEvent) :
    receivedBytes (.xfer c o r :: es) = r :: receivedBytes es := rfl
@[simp] theorem receivedBytes_append (es fs : List LinkEvent) :
    receivedBytes (es ++ fs) = receivedBytes es ++ receivedBytes fs := List.filterMap_append

/-- Every exchange drives one byte and receives one (R51). -/
theorem receivedBytes_length (es : List LinkEvent) : (receivedBytes es).length = xferCount es := by
  induction es with
  | nil => rfl
  | cons e es ih => cases e <;> simp_all [xferCount]

@[simp] theorem xferCount_nil : xferCount [] = 0 := rfl
@[simp] theorem xferCount_sel (es : List LinkEvent) : xferCount (.sel :: es) = xferCount es := rfl
@[simp] theorem xferCount_desel (es : List LinkEvent) : xferCount (.desel :: es) = xferCount es := rfl
@[simp] theorem xferCount_xfer (c : Bool) (o r : Byte) (es : List LinkEvent) :
    xferCount (.xfer c o r :: es) = xferCount es + 1 := rfl
@[simp] theorem xferCount_append (es fs : List LinkEvent) : xferCount (es ++ fs) = xferCount es + xferCount fs := by
  simp [xferCount]

@[simp] theorem xferCount_map_xfer (c : Bool) (o : Byte) (rs : List Byte) :
    xferCount (rs.map (LinkEvent.xfer c o)) = rs.length := by
  induction rs <;> simp_all

@[simp] theorem drivenBytes_map_xfer (c : Bool) (o : Byte) (rs : List Byte) :
    drivenBytes (rs.map (LinkEvent.xfer c o)) = List.replicate rs.length o := by
  induction rs <;> simp_all [List.replicate_succ]

@[simp] theorem csAfter_append (c : Bool) (es fs : List LinkEvent) :
    csAfter c (es ++ fs) = csAfter (csAfter c es) fs := by
  induction es generalizing c with
  | nil => rfl
  | cons e es ih => cases e <;> exact ih _

@[simp] theorem consistentFrom_append (c : Bool) (es fs : List LinkEvent) :
    consistentFrom c (es ++ fs) = (consistentFrom c es && consistentFrom (csAfter c es) fs) := by
  induction es generalizing c with
  | nil => simp [consistentFrom, csAfter]
  | cons e es ih => cases e <;> simp [consistentFrom, csAfter, ih, Bool.and_assoc]

@[simp] theorem csAfter_map_xfer (c d : Bool) (o : Byte) (rs : List Byte) :
    csAfter c (rs.map (LinkEvent.xfer d o)) = c := by
  induction rs <;> simp_all [csAfter]

@[simp] theorem csAfter_zipWith_xfer (c d : Bool) (os rs : List Byte) :
    csAfter c (List.zipWith (LinkEvent.xfer d) os rs) = c := by
  induction os generalizing rs with
  | nil => rfl
  | cons o os ih => cases rs <;> simp_all [csAfter]

theorem drivenBytes_zipWith_xfer (c : Bool) {os rs : List Byte} (h : rs.length = os.length) :
    drivenBytes (List.zipWith (LinkEvent.xfer c) os rs) = os := by
  induction os generalizing rs with
  | nil => rfl
  | cons o os ih =>
    cases rs with
    | nil => simp at h
    | cons r rs => simpa using ih (by simpa using h)

/-! ### Composition -/

theorem LinkRun.refl (s : State) : LinkRun s s [] := by
  constructor <;> simp [csAfter, consistentFrom]

/-- Traffic after traffic. -/
theorem LinkRun.trans {s t u : State} {es fs : List LinkEvent} (h : LinkRun s t es) (k : LinkRun t u fs) :
    LinkRun s u (es ++ fs) where
  history := by rw [k.history, h.history, List.append_assoc]
  cs := by rw [k.cs, h.cs, csAfter_append]
  consistent := by
    have := k.consistent
    rw [h.cs] at this
    simp [h.consistent, this]
  answers := by rw [k.answers, h.answers, List.drop_drop, xferCount_append]
  drawn := by rw [k.drawn, h.drawn, xferCount_append, Nat.add_assoc]
  received := by
    have h1 := h.received
    have h2 := k.received
    rw [h.answers] at h2
    rw [receivedBytes_append, xferCount_append, List.take_append, h1, receivedBytes_length, List.take_add]
    rw [← h2, List.length_drop]
  cardType := k.cardType.trans h.cardType
  crcTable := k.crcTable.trans h.crcTable
  crcTableValid := k.crcTableValid.trans h.crcTableValid
  sequencer := k.sequencer.trans h.sequencer
  responses := k.responses.trans h.responses
  work := k.work.trans h.work
  host := k.host.trans h.host

/-! ### The primitives -/

/-- One exchange: one event, with the byte it answers (R100). -/
theorem exchange_run (out : Byte) (s : State) :
    LinkRun s (exchange out s).2 [.xfer s.cs out (exchange out s).1] := by
  constructor <;> simp [exchange, csAfter, consistentFrom]
  cases h : s.cardAnswers <;> simp [State.cardAnswer, h]

theorem select_run (s : State) : LinkRun s (select s) [.sel] := by
  constructor <;> simp [select, csAfter, consistentFrom]

theorem deselect_run (s : State) : LinkRun s (deselect s) [.desel] := by
  constructor <;> simp [deselect, csAfter, consistentFrom]

/-- A dummy exchange receives some byte. -/
theorem dummy_run (s : State) : ∃ r, LinkRun s (dummy s) [.xfer s.cs 0xFF#8 r] :=
  ⟨_, exchange_run Config.fill s⟩

/-- Sending bytes: one event per byte, with as many bytes received. -/
theorem sendBytes_run (bs : List Byte) (s : State) :
    ∃ rs : List Byte, rs.length = bs.length ∧ LinkRun s (sendBytes bs s) (List.zipWith (LinkEvent.xfer s.cs) bs rs) := by
  induction bs generalizing s with
  | nil => exact ⟨[], rfl, LinkRun.refl s⟩
  | cons b bs ih =>
    obtain ⟨rs, hlen, hrun⟩ := ih (exchange b s).2
    refine ⟨(exchange b s).1 :: rs, by simp [hlen], ?_⟩
    have h := exchange_run b s
    have hcs : (exchange b s).2.cs = s.cs := h.cs
    rw [hcs] at hrun
    exact h.trans hrun

/-- Dummy exchanges. -/
theorem dummies_run (n : Nat) (s : State) :
    ∃ rs : List Byte, rs.length = n ∧ LinkRun s (dummies n s) (rs.map (LinkEvent.xfer s.cs 0xFF#8)) := by
  obtain ⟨rs, hlen, hrun⟩ := sendBytes_run (List.replicate n Config.fill) s
  have hn : rs.length = n := by simpa using hlen
  refine ⟨rs, hn, ?_⟩
  have hz : List.zipWith (LinkEvent.xfer s.cs) (List.replicate n Config.fill) rs =
      rs.map (LinkEvent.xfer s.cs 0xFF#8) := by
    subst hn
    clear hlen hrun
    induction rs with
    | nil => rfl
    | cons r rs ih => simp [List.replicate_succ, Config.fill]; simpa [Config.fill] using ih
  rwa [hz] at hrun

end Sys2Proof.Machine
end

