-- ==== Sys2Proof/Laws/Transport.lean ====
section
/-!
SUPPORT. Bounded loops and the command transport: everything they can do, as link traffic.
-/
namespace Sys2Proof.Machine

/-! ### Bounded loops -/

/-- A property that the body keeps holds after the loop. -/
theorem repeatUntil_keeps {α : Type} {P : State → Prop} {body : State → α × State} {stop : α → Bool}
    (hbody : ∀ s, P s → P (body s).2) (extra : Nat) (s : State) (hs : P s) :
    P (repeatUntil body stop extra s).2 := by
  induction extra generalizing s with
  | zero => exact hbody s hs
  | succ n ih =>
    simp only [repeatUntil]
    split
    · exact hbody s hs
    · exact ih _ (hbody s hs)

/-- A loop over link operations: its traffic is the traffic of its rounds, and its results end as `repeat … until` ends. -/
theorem repeatUntil_run {α : Type} {I : State → Prop} {T : List LinkEvent → α → Prop}
    {body : State → α × State} {stop : α → Bool}
    (hbody : ∀ s, I s → ∃ es, LinkRun s (body s).2 es ∧ T es (body s).1 ∧ I (body s).2)
    (extra : Nat) (s : State) (hs : I s) :
    ∃ rounds : List (List LinkEvent × α),
      PollEnds (extra + 1) stop (rounds.map Prod.snd) (repeatUntil body stop extra s).1 ∧
      LinkRun s (repeatUntil body stop extra s).2 (rounds.map Prod.fst).flatten ∧
      (∀ x ∈ rounds, T x.1 x.2) ∧ I (repeatUntil body stop extra s).2 := by
  induction extra generalizing s with
  | zero =>
    obtain ⟨es, hrun, hT, hI⟩ := hbody s hs
    refine ⟨[(es, (body s).1)], ⟨rfl, by simp, by simp, .inr rfl⟩, by simpa [repeatUntil] using hrun, ?_, hI⟩
    simpa using hT
  | succ n ih =>
    obtain ⟨es, hrun, hT, hI⟩ := hbody s hs
    simp only [repeatUntil]
    split
    · next hstop =>
      refine ⟨[(es, (body s).1)], ⟨rfl, by simp, by simp, .inl hstop⟩, by simpa using hrun, ?_, hI⟩
      simpa using hT
    · next hstop =>
      obtain ⟨rounds, hends, hruns, hall, hlast⟩ := ih _ hI
      refine ⟨(es, (body s).1) :: rounds, ⟨?_, ?_, ?_, ?_⟩, ?_, ?_, hlast⟩
      · simp [List.getLast?_cons, hends.ends]
      · simpa using hends.within
      · have hne : rounds.map Prod.snd ≠ [] := by
          intro h; have := hends.ends; simp [h] at this
        simp only [List.map_cons, List.dropLast_cons_of_ne_nil hne, List.mem_cons, forall_eq_or_imp]
        exact ⟨by simpa using hstop, hends.goesOn⟩
      · exact hends.stops.imp id fun h => by simpa using h
      · simpa using hrun.trans hruns
      · exact List.forall_mem_cons.2 ⟨hT, hall⟩

/-- Polling the link: exchanges of 0xFF, with the bytes received. -/
theorem pollLink_run (stop : Byte → Bool) (extra : Nat) (s : State) :
    ∃ polls : List Byte,
      PollEnds (extra + 1) stop polls (repeatUntil (exchange Config.fill) stop extra s).1 ∧
      LinkRun s (repeatUntil (exchange Config.fill) stop extra s).2 (polls.map (LinkEvent.xfer s.cs 0xFF#8)) := by
  obtain ⟨rounds, hends, hrun, hall, -⟩ :=
    repeatUntil_run (I := fun t => t.cs = s.cs) (T := fun es r => es = [.xfer s.cs 0xFF#8 r])
      (body := exchange Config.fill) (stop := stop)
      (fun t ht => ⟨_, exchange_run Config.fill t, by simp [ht, Config.fill], (exchange_run Config.fill t).cs.trans ht⟩)
      extra s rfl
  refine ⟨rounds.map Prod.snd, hends, ?_⟩
  have hflat : (rounds.map Prod.fst).flatten = (rounds.map Prod.snd).map (LinkEvent.xfer s.cs 0xFF#8) := by
    clear hends hrun
    induction rounds with
    | nil => rfl
    | cons x rounds ih =>
      have hx := hall x (by simp)
      simp [hx, ih fun y hy => hall y (by simp [hy])]
  rwa [hflat] at hrun

/-! ### One command -/

theorem frameNumber_frameBytes (idx : CommandIndex) (argument : Word32) :
    frameNumber (frameBytes idx argument) = frameOf idx argument := by
  have hcrc : frameCrcByte idx = (if idx = 0#6 then 0x95#8 else if idx = 8#6 then 0x87#8 else 0x01#8) := rfl
  simp only [frameBytes, frameOf, frameNumber, List.foldl_cons, List.foldl_nil, ← hcrc]
  generalize frameCrcByte idx = crc
  apply BitVec.eq_of_getLsbD_eq
  intro i hi
  simp only [BitVec.getLsbD_or, BitVec.getLsbD_shiftLeft, BitVec.getLsbD_setWidth, BitVec.getLsbD_append,
    BitVec.getLsbD_extractLsb']
  interval_cases i <;> simp

theorem keepsSelected_iff (idx : CommandIndex) :
    keepsSelected idx = true ↔ idx ∈ [8#6, 9#6, 10#6, 13#6, 17#6, 27#6, 42#6, 58#6] := by
  simp [keepsSelected, keepSet]

theorem noResponse_iff (r : Byte) : noResponse r = true ↔ 0x80 ≤ r.toNat := by
  simp [noResponse, BitVec.msb_eq_decide]

/-- The response poll stops where R144 says: at a byte below 0x80. -/
theorem pollStops_eq : (fun r : Byte => !noResponse r) = fun r : Byte => decide (r.toNat < 0x80) := by
  funext r
  have := noResponse_iff r
  cases h : noResponse r <;> simp_all

theorem responseStatus_eq (r : Byte) : responseStatus r = if 0x80 ≤ r.toNat then .timeout else .ok := by
  have := noResponse_iff r
  unfold responseStatus
  split <;> split <;> simp_all

theorem shortCircuitStatus_eq (r : Byte) :
    shortCircuitStatus r = if 0x80 ≤ r.toNat then .timeout else .protocolError := by
  have := noResponse_iff r
  unfold shortCircuitStatus
  split <;> split <;> simp_all

theorem openSequence_run (s : State) :
    ∃ d₁ d₂, LinkRun s (openSequence s) [.desel, .xfer false 0xFF#8 d₁, .sel, .xfer true 0xFF#8 d₂] := by
  obtain ⟨d₁, h₁⟩ := dummy_run (deselect s)
  obtain ⟨d₂, h₂⟩ := dummy_run (select (dummy (deselect s)))
  exact ⟨d₁, d₂, (((deselect_run s).trans h₁).trans (select_run _)).trans h₂⟩

theorem closeSequence_run (s : State) : ∃ d, LinkRun s (closeSequence s) [.desel, .xfer false 0xFF#8 d] := by
  obtain ⟨d, h⟩ := dummy_run (deselect s)
  exact ⟨d, (deselect_run s).trans h⟩

/-- Everything one command without a prefix does. -/
theorem transact_run (idx : CommandIndex) (argument : Word32) (s : State) :
    ∃ es, LinkRun s (transact idx argument s).2 es ∧ PlainCommand idx argument es (transact idx argument s).1 := by
  obtain ⟨d₁, d₂, hopen⟩ := openSequence_run s
  obtain ⟨rs, hlen, hframe⟩ := sendBytes_run (frameBytes idx argument) (openSequence s)
  obtain ⟨polls, hends, hpoll⟩ := pollLink_run (fun r => !noResponse r) 9
    (sendBytes (frameBytes idx argument) (openSequence s))
  have hcs : (openSequence s).cs = true := by simp [hopen.cs, csAfter]
  have hcs' : (sendBytes (frameBytes idx argument) (openSequence s)).cs = true := by simp [hframe.cs, hcs]
  rw [hcs] at hframe
  rw [hcs'] at hpoll
  have hrun := (hopen.trans hframe).trans hpoll
  rw [pollStops_eq] at hends
  change LinkRun s (pollResponse (sendBytes (frameBytes idx argument) (openSequence s))).2 _ at hrun
  by_cases hk : keepsSelected idx = true
  · refine ⟨_, by simpa [transact, hk] using hrun, d₁, d₂, 0, _, rs, polls, rfl,
      frameNumber_frameBytes idx argument, hlen, ?_, ?_⟩
    · simpa [transact, pollResponse, repeatWithin, Config.respPollLimit, pollStops_eq] using hends
    · simp [(keepsSelected_iff idx).1 hk]
  · obtain ⟨d₃, hclose⟩ := closeSequence_run (pollResponse (sendBytes (frameBytes idx argument) (openSequence s))).2
    refine ⟨_, by simpa [transact, hk] using hrun.trans hclose, d₁, d₂, d₃, _, rs, polls, rfl,
      frameNumber_frameBytes idx argument, hlen, ?_, ?_⟩
    · simpa [transact, pollResponse, repeatWithin, Config.respPollLimit, pollStops_eq] using hends
    · rw [if_neg (fun h => hk ((keepsSelected_iff idx).2 h))]
      simp

/-- The status and byte that `sendPlain` answers. -/
theorem sendPlain_run (idx : CommandIndex) (argument : Word32) (s : State) :
    ∃ es, LinkRun s (sendPlain idx argument s).2 es ∧
      PlainCommand idx argument es (sendPlain idx argument s).1.value ∧
      (sendPlain idx argument s).1.status =
        if 0x80 ≤ (sendPlain idx argument s).1.value.toNat then .timeout else .ok := by
  obtain ⟨es, hrun, hplain⟩ := transact_run idx argument s
  exact ⟨es, hrun, hplain, responseStatus_eq _⟩

/-- A command without the ACMD flag is one plain command. -/
theorem sendCommand_plain {command : Byte} (hf : acmdFlag command = false) (argument : Word32) (s : State) :
    sendCommand command argument s = sendPlain (commandIndex command) argument s := by
  simp [sendCommand, hf]

/-- An ACMD that the APP_CMD response stops. -/
theorem sendCommand_stopped {command : Byte} (hf : acmdFlag command = true) (argument : Word32) {s : State}
    (hs : stopsAcmd (sendPlain 55#6 0#32 s).1.value = true) :
    sendCommand command argument s =
      (⟨shortCircuitStatus (sendPlain 55#6 0#32 s).1.value, (sendPlain 55#6 0#32 s).1.value⟩,
        (sendPlain 55#6 0#32 s).2) := by
  have h55 : commandIndex appCmdCode = 55#6 := by decide
  simp [sendCommand, hf, h55, hs]

/-- An ACMD that goes on after APP_CMD. -/
theorem sendCommand_continued {command : Byte} (hf : acmdFlag command = true) (argument : Word32) {s : State}
    (hs : stopsAcmd (sendPlain 55#6 0#32 s).1.value = false) :
    sendCommand command argument s = sendPlain (commandIndex command) argument (sendPlain 55#6 0#32 s).2 := by
  have h55 : commandIndex appCmdCode = 55#6 := by decide
  simp [sendCommand, hf, h55, hs]

theorem stopsAcmd_iff (r : Byte) : stopsAcmd r = true ↔ 1 < r.toNat := by
  simp [stopsAcmd, BitVec.lt_def]

theorem acmdFlag_eq (command : Byte) : acmdFlag command = decide (0x80 ≤ command.toNat) := by
  simp [acmdFlag, BitVec.msb_eq_decide]

theorem commandIndex_eq (command : Byte) : commandIndex command = command.setWidth 6 := by
  apply BitVec.eq_of_getLsbD_eq
  simp [commandIndex]

/-- Everything SEND_COMMAND's body does. -/
theorem sendCommand_run (command : Byte) (argument : Word32) (s : State) :
    ∃ es, LinkRun s (sendCommand command argument s).2 es ∧
      CommandTraffic command argument es (sendCommand command argument s).1.status
        (sendCommand command argument s).1.value := by
  have hflag := acmdFlag_eq command
  by_cases hc : command.toNat < 0x80
  · have hf : acmdFlag command = false := by rw [hflag]; simp; omega
    obtain ⟨es, hrun, hplain, hst⟩ := sendPlain_run (commandIndex command) argument s
    rw [sendCommand_plain hf]
    refine ⟨es, hrun, ?_⟩
    simp only [CommandTraffic, hc, if_true, ← commandIndex_eq]
    exact ⟨hplain, hst⟩
  · have hf : acmdFlag command = true := by rw [hflag]; simp; omega
    obtain ⟨es₅₅, hrun₅₅, hplain₅₅, -⟩ := sendPlain_run 55#6 0#32 s
    simp only [CommandTraffic, hc, if_false, ← commandIndex_eq]
    cases hs : stopsAcmd (sendPlain 55#6 0#32 s).1.value with
    | true =>
      rw [sendCommand_stopped hf argument hs]
      refine ⟨es₅₅, hrun₅₅, es₅₅, _, hplain₅₅, ?_⟩
      rw [if_pos ((stopsAcmd_iff _).1 hs)]
      exact ⟨rfl, rfl, shortCircuitStatus_eq _⟩
    | false =>
      obtain ⟨es, hrun, hplain, hst⟩ := sendPlain_run (commandIndex command) argument (sendPlain 55#6 0#32 s).2
      rw [sendCommand_continued hf argument hs]
      refine ⟨es₅₅ ++ es, hrun₅₅.trans hrun, es₅₅, _, hplain₅₅, ?_⟩
      rw [if_neg (fun h => by simp [(stopsAcmd_iff _).2 h] at hs)]
      exact ⟨es, hplain, rfl, hst⟩

end Sys2Proof.Machine
end

