-- ==== Sys2Proof/Laws/Client.lean ====
section
/-!
SUPPORT. The host's building blocks: one issued request, and the loops over issued requests, as link traffic. That an encoded instruction
decodes to itself is a hypothesis here: it is a statement of its own.
-/
namespace Sys2Proof.Machine

@[simp] theorem andThen_next {α β : Type} (a : α) (f : α → Host.Outcome β Fault Refusal) : andThen (.next a) f = f a := rfl
@[simp] theorem andThen_fault {α β : Type} (r : Fault) (f : α → Host.Outcome β Fault Refusal) :
    andThen (.fault r) f = .fault r := rfl
@[simp] theorem andThen_refused {α β : Type} (r : Refusal) (f : α → Host.Outcome β Fault Refusal) :
    andThen (.refused r) f = .refused r := rfl

/-- A sequence answers a next state exactly when each of its parts does. -/
theorem andThen_eq_next {α β : Type} {o : Host.Outcome α Fault Refusal} {f : α → Host.Outcome β Fault Refusal} {b : β} :
    andThen o f = .next b ↔ ∃ a, o = .next a ∧ f a = .next b := by
  cases o <;> simp

/-- The traffic of issued requests: link traffic, and responses. -/
def HostRun (s t : State) (es : List LinkEvent) : Prop :=
  LinkRun s { t with responses := s.responses } es

theorem HostRun.refl (s : State) : HostRun s s [] := LinkRun.refl s

theorem HostRun.trans {s t u : State} {es fs : List LinkEvent} (h : HostRun s t es) (k : HostRun t u fs) :
    HostRun s u (es ++ fs) :=
  LinkRun.trans h (t := { t with responses := s.responses })
    ⟨k.history, k.cs, k.consistent, k.answers, k.drawn, k.received, k.cardType, k.crcTable, k.crcTableValid, k.sequencer,
      rfl, k.work, k.host⟩

/-- Link traffic, then one response. -/
theorem LinkRun.answered {s u : State} {es : List LinkEvent} (h : LinkRun s u es) (y : ResponseWord) :
    HostRun s (u.answer y) es :=
  ⟨h.history, h.cs, h.consistent, h.answers, h.drawn, h.received, h.cardType, h.crcTable, h.crcTableValid, h.sequencer,
    rfl, h.work, h.host⟩

@[simp] theorem lastResponse_answer (s : State) (y : ResponseWord) : (s.answer y).lastResponse = y := by
  simp [State.lastResponse]

/-- A request whose word decodes to its instruction runs it and binds its response. -/
theorem issue_of_next {i : Instr} (hi : decode (encode i) = .ok i) {s u : State} {y : ResponseWord}
    (h : exec i s = .next (u.answer y)) : issue i s = .next (y, u.answer y) := by
  simp [issue, request, hi, h]

/-- `XCHG b`. -/
theorem issue_exchange {b : Byte} (hi : decode (encode (.exchange b)) = .ok (.exchange b)) (s : State) :
    ∃ r t, issue (.exchange b) s = .next (responseWord .ok r, t) ∧ HostRun s t [.xfer s.cs b r] :=
  ⟨_, _, issue_of_next hi rfl, (exchange_run b s).answered _⟩

/-- `XCHG` over a list of bytes. -/
theorem exchangeEach_run (hdec : ∀ b, decode (encode (.exchange b)) = .ok (.exchange b)) (bs : List Byte) (s : State) :
    ∃ rs t, exchangeEach bs s = .next (rs, t) ∧ rs.length = bs.length ∧
      HostRun s t (List.zipWith (LinkEvent.xfer s.cs) bs rs) := by
  induction bs generalizing s with
  | nil => exact ⟨[], s, rfl, rfl, HostRun.refl s⟩
  | cons b bs ih =>
    obtain ⟨r, u, hu, hrun⟩ := issue_exchange (hdec b) s
    obtain ⟨rs, t, ht, hlen, hrun'⟩ := ih u
    refine ⟨r :: rs, t, ?_, by simp [hlen], ?_⟩
    · simp [exchangeEach, hu, ht]
    · have hcs : u.cs = s.cs := by simpa [csAfter] using hrun.cs
      rw [hcs] at hrun'
      exact hrun.trans hrun'

/-- `Close()`. -/
theorem close_run (hdesel : decode (encode .deselect) = .ok .deselect)
    (hfill : decode (encode (.exchange 0xFF#8)) = .ok (.exchange 0xFF#8)) (s : State) :
    ∃ d t, close s = .next t ∧ HostRun s t [.desel, .xfer false 0xFF#8 d] := by
  have h₁ : issue .deselect s = .next (responseWord .ok 0#8, (deselect s).answer (responseWord .ok 0#8)) :=
    issue_of_next hdesel rfl
  obtain ⟨d, t, ht, hrun⟩ := issue_exchange hfill ((deselect s).answer (responseWord .ok 0#8))
  refine ⟨d, t, ?_, ((deselect_run s).answered _).trans hrun⟩
  simp only [close, issue_, h₁, andThen_next, show Config.fill = 0xFF#8 from rfl, ht]

/-- `CMD k, a`. -/
theorem cmd_run {k : Byte} {a : Word32} (hi : decode (encode (.sendCommand k a)) = .ok (.sendCommand k a)) (s : State) :
    ∃ es st r t, cmd k a s = .next (responseWord st r, t) ∧ HostRun s t es ∧ CommandTraffic k a es st r := by
  obtain ⟨es, hrun, htraffic⟩ := sendCommand_run k a s
  exact ⟨es, _, _, _, issue_of_next hi rfl, hrun.answered _, htraffic⟩

/-- BusyPoll (R252): exchanges of 0xFF, at least one, at most `extra + 1`, while the byte is 0x00. -/
theorem pollBusy_run (hfill : decode (encode (.exchange 0xFF#8)) = .ok (.exchange 0xFF#8)) (extra : Nat) (s : State) :
    ∃ polls b t, pollBusy extra s = .next (b, t) ∧ PollEnds (extra + 1) (fun r => r != 0x00#8) polls b ∧
      HostRun s t (polls.map (LinkEvent.xfer s.cs 0xFF#8)) := by
  induction extra generalizing s with
  | zero =>
    obtain ⟨r, t, ht, hrun⟩ := issue_exchange hfill s
    refine ⟨[r], r, t, ?_, ⟨rfl, by simp, by simp, .inr rfl⟩, hrun⟩
    simp [pollBusy, show Config.fill = 0xFF#8 from rfl, ht]
  | succ n ih =>
    obtain ⟨r, u, hu, hrun⟩ := issue_exchange hfill s
    have hcs : u.cs = s.cs := by simpa [csAfter] using hrun.cs
    by_cases hr : r = 0x00#8
    · obtain ⟨polls, b, t, ht, hends, hrun'⟩ := ih u
      rw [hcs] at hrun'
      refine ⟨r :: polls, b, t, ?_, ⟨?_, ?_, ?_, ?_⟩, hrun.trans hrun'⟩
      · simp [pollBusy, show Config.fill = 0xFF#8 from rfl, hu, hr, ht]
      · simp [List.getLast?_cons, hends.ends]
      · simpa using hends.within
      · have hne : polls ≠ [] := by
          intro h; have := hends.ends; simp [h] at this
        rw [List.dropLast_cons_of_ne_nil hne]
        exact List.forall_mem_cons.2 ⟨by simp [hr], hends.goesOn⟩
      · exact hends.stops.imp id fun h => by simpa using h
    · refine ⟨[r], r, u, ?_, ⟨rfl, by simp, by simp, .inl (by simpa using hr)⟩, hrun⟩
      simp [pollBusy, show Config.fill = 0xFF#8 from rfl, hu, hr]

/-- `WTOK` (R190): at most 100 exchanges of 0xFF, with the byte that ended them. -/
theorem waitToken_run (hi : decode (encode .waitToken) = .ok .waitToken) (s : State) :
    ∃ polls token t,
      issue .waitToken s = .next (responseWord (if token = 0xFF#8 then .timeout else .ok) token, t) ∧
      PollEnds 100 (fun b => b != 0xFF#8) polls token ∧ HostRun s t (polls.map (LinkEvent.xfer s.cs 0xFF#8)) := by
  obtain ⟨polls, hends, hrun⟩ := pollLink_run (fun b => b != 0xFF#8) 99 s
  exact ⟨polls, _, _, issue_of_next hi rfl, hends, hrun.answered _⟩

/-- `DTOK t` (R193): no link event. -/
theorem decodeErrorToken_run {k : Byte} (hi : decode (encode (.decodeErrorToken k)) = .ok (.decodeErrorToken k)) (s : State) :
    ∃ t, issue (.decodeErrorToken k) s =
        .next (if isDataErrorToken k then responseWord .dataError (dataErrorFlags k) else responseWord .ok 0x00#8, t) ∧
      HostRun s t [] := by
  refine ⟨_, issue_of_next hi ?_, (LinkRun.refl s).answered _⟩
  simp only [exec, execDecodeErrorToken]
  split <;> rfl

/-- Every byte of a list driven, every byte received: exchanges of 0xFF. -/
theorem zipWith_fill (c : Bool) {n : Nat} {rs : List Byte} (h : rs.length = n) :
    List.zipWith (LinkEvent.xfer c) (List.replicate n 0xFF#8) rs = rs.map (LinkEvent.xfer c 0xFF#8) := by
  subst h
  induction rs with
  | nil => rfl
  | cons r rs ih => simp [List.replicate_succ, ih]

/-- `n` times `XCHG 0xFF`. -/
theorem receive_run (hdec : ∀ b, decode (encode (.exchange b)) = .ok (.exchange b)) (n : Nat) (s : State) :
    ∃ rs t, receive n s = .next (rs, t) ∧ rs.length = n ∧ HostRun s t (rs.map (LinkEvent.xfer s.cs 0xFF#8)) := by
  obtain ⟨rs, t, ht, hlen, hrun⟩ := exchangeEach_run hdec (List.replicate n Config.fill) s
  rw [List.length_replicate] at hlen
  rw [show Config.fill = 0xFF#8 from rfl, zipWith_fill s.cs hlen] at hrun
  exact ⟨rs, t, ht, hlen, hrun⟩

/-- `XCHG` over a list of bytes, received bytes unused. -/
theorem transmit_run (hdec : ∀ b, decode (encode (.exchange b)) = .ok (.exchange b)) (bs : List Byte) (s : State) :
    ∃ es t, transmit bs s = .next t ∧ HostRun s t es ∧ drivenBytes es = bs := by
  obtain ⟨rs, t, ht, hlen, hrun⟩ := exchangeEach_run hdec bs s
  exact ⟨_, t, by simp [transmit, ht], hrun, drivenBytes_zipWith_xfer s.cs hlen⟩

/-- Bytes sent each with a CRC step (R250), with the table built: the bytes driven, and the CRC of them. -/
theorem sendWithCrc_run (hdec : ∀ b, decode (encode (.exchange b)) = .ok (.exchange b))
    (hcrc : ∀ c b, decode (encode (.crcExtend c b)) = .ok (.crcExtend c b))
    (hentry : ∀ (c : Crc7) (b : Byte), ((crc7 [crcTableIndex c b]).setWidth 8).setWidth 7 = crc7Byte c b)
    (bs : List Byte) (c : Crc7) (s : State) (hvalid : s.crcTableValid = true)
    (htable : ∀ i : Byte, s.tableRead i = some ((crc7 [i]).setWidth 8)) :
    ∃ es t, sendWithCrc bs c s = .next (bs.foldl crc7Byte c, t) ∧ HostRun s t es ∧ drivenBytes es = bs ∧
      csAfter s.cs es = s.cs := by
  induction bs generalizing c s with
  | nil => exact ⟨[], s, rfl, HostRun.refl s, rfl, rfl⟩
  | cons b bs ih =>
    obtain ⟨r, u, hu, hrun⟩ := issue_exchange (hdec b) s
    have hcs : u.cs = s.cs := by simpa [csAfter] using hrun.cs
    have huv : u.crcTableValid = true := hrun.crcTableValid.trans hvalid
    have hut : ∀ i : Byte, u.tableRead i = some ((crc7 [i]).setWidth 8) := fun i =>
      (congrArg (fun m : Memory => m.read i.toNat) hrun.crcTable).trans (htable i)
    have hx : exec (.crcExtend c b) u =
        .next (u.answer (responseWord .ok ((crc7 [crcTableIndex c b]).setWidth 8))) := by
      simp [exec, execCrcExtend, huv, hut, respond]
    obtain ⟨es, t, ht, hrun', hdriven, hcs'⟩ := ih (crc7Byte c b) (u.answer _) huv hut
    refine ⟨[.xfer s.cs b r] ++ es, t, ?_, (hrun.trans ((LinkRun.refl u).answered _)).trans hrun', by simp [hdriven], ?_⟩
    · simp only [sendWithCrc, issue_, hu, andThen_next, issue_of_next (hcrc c b) hx, valueField_responseWord, hentry,
        List.foldl_cons]
      exact ht
    · have : u.cs = s.cs := hcs
      simpa [csAfter, this] using hcs'

/-- The end of a write, from a state with the card selected. -/
theorem busyPollAndClose_run (hfill : decode (encode (.exchange 0xFF#8)) = .ok (.exchange 0xFF#8))
    (hdesel : decode (encode .deselect) = .ok .deselect) (after : ClientState → ClientState) (s : State)
    (hcs : s.cs = true) :
    ∃ es res u t, busyPollAndClose after s = .next (res, t) ∧ HostRun s u es ∧ BusyTraffic es res ∧
      t = u.onHost (if res = .ok then after else fun h => (after h).invalidate) := by
  obtain ⟨busy, last, v, hv, hends, hrun⟩ := pollBusy_run hfill (Config.busyPollLimit - 1) s
  obtain ⟨d, u, hu, hrun'⟩ := close_run hdesel hfill v
  rw [hcs] at hrun
  by_cases hl : last = 0x00#8
  · refine ⟨_, .fail .timeout (.raw 0x00#8), u, _, ?_, hrun.trans hrun', ⟨busy, last, d, hends, rfl, (if_pos hl).symm⟩, rfl⟩
    simp [busyPollAndClose, hv, hu, hl, failWith, State.onHost, State.setHost]
  · refine ⟨_, .ok, u, _, ?_, hrun.trans hrun', ⟨busy, last, d, hends, rfl, (if_neg hl).symm⟩, rfl⟩
    simp [busyPollAndClose, hv, hu, hl, succeed, State.onHost, State.setHost]

/-- A rejected command, from any state: `Close()`, then `Fail`. -/
theorem closeAndFail_run (hfill : decode (encode (.exchange 0xFF#8)) = .ok (.exchange 0xFF#8))
    (hdesel : decode (encode .deselect) = .ok .deselect) (y : ResponseWord) (s : State) :
    ∃ d u, closeAndFail y s = .next (.fail (commandFailure y) (.raw (valueField y)), u.onHost ClientState.invalidate) ∧
      HostRun s u [.desel, .xfer false 0xFF#8 d] := by
  obtain ⟨d, u, hu, hrun⟩ := close_run hdesel hfill s
  exact ⟨d, u, by simp [closeAndFail, hu, failWith], hrun⟩

end Sys2Proof.Machine
end

