-- ==== Sys2Proof/Laws/Memory.lean ====
section
/-!
SUPPORT. The CRC table store: reading what was written, and the canonical form.
-/
namespace Sys2Proof.Machine

@[simp] theorem Memory.read_nil (a : Nat) : Memory.read [] a = none := rfl

/-- A read of the cell just written. -/
@[simp] theorem Memory.read_write_self (m : Memory) (a : Nat) (v : Byte) : (m.write a v).read a = some v := by
  induction m with
  | nil => simp [Memory.write, Memory.read]
  | cons c m ih =>
    obtain ⟨b, w⟩ := c
    simp only [Memory.write]
    split
    · simp [Memory.read]
    · split
      · simp [Memory.read]
      · next hlt hne => simp [Memory.read, ih, Ne.symm hne]

/-- A write leaves every other cell alone. -/
theorem Memory.read_write_other (m : Memory) {a a' : Nat} (v : Byte) (h : a' ≠ a) :
    (m.write a v).read a' = m.read a' := by
  induction m with
  | nil => simp [Memory.write, Memory.read, h.symm]
  | cons c m ih =>
    obtain ⟨b, w⟩ := c
    simp only [Memory.write]
    split
    · simp [Memory.read, h.symm]
    · split
      · next _ heq => subst heq; simp [Memory.read, h.symm]
      · simp [Memory.read, ih]

/-- The addresses after a write: those before it, and the one written. -/
theorem Memory.mem_write {m : Memory} {a : Nat} {v : Byte} {c : Host.Cell} (h : c ∈ m.write a v) :
    c = (a, v) ∨ c ∈ m := by
  induction m with
  | nil => simpa [Memory.write] using h
  | cons d m ih =>
    obtain ⟨b, w⟩ := d
    simp only [Memory.write] at h
    split at h
    · simpa using h
    · split at h
      · rcases List.mem_cons.1 h with h | h
        · exact .inl h
        · exact .inr (List.mem_cons_of_mem _ h)
      · rcases List.mem_cons.1 h with h | h
        · exact .inr (h ▸ List.mem_cons_self)
        · exact (ih h).imp id (List.mem_cons_of_mem _)

/-- The canonical form, as propositions. -/
theorem Memory.wf_iff (m : Memory) :
    m.wf = true ↔ m.Pairwise (fun c d => c.1 < d.1) ∧ ∀ c ∈ m, c.1 < 256 := by
  simp [Memory.wf]

@[simp] theorem Memory.wf_nil : Memory.wf [] = true := rfl

theorem Memory.pairwise_write {m : Memory} {a : Nat} {v : Byte}
    (h : m.Pairwise (fun c d => c.1 < d.1)) : (m.write a v).Pairwise (fun c d => c.1 < d.1) := by
  induction m with
  | nil => simp [Memory.write]
  | cons d m ih =>
    obtain ⟨b, w⟩ := d
    obtain ⟨hb, hm⟩ := List.pairwise_cons.1 h
    simp only [Memory.write]
    split
    · next hlt =>
      refine List.pairwise_cons.2 ⟨?_, h⟩
      intro c hc
      rcases List.mem_cons.1 hc with rfl | hc
      · exact hlt
      · exact Nat.lt_trans hlt (hb c hc)
    · split
      · next _ heq => subst heq; exact List.pairwise_cons.2 ⟨hb, hm⟩
      · next hlt hne =>
        refine List.pairwise_cons.2 ⟨?_, ih hm⟩
        intro c hc
        rcases Memory.mem_write hc with rfl | hc
        · simp only; omega
        · exact hb c hc

/-- Every write inside the index range keeps the canonical form. -/
theorem Memory.wf_write {m : Memory} {a : Nat} {v : Byte} (h : m.wf = true) (ha : a < 256) :
    (m.write a v).wf = true := by
  rw [Memory.wf_iff] at *
  refine ⟨Memory.pairwise_write h.1, fun c hc => ?_⟩
  rcases Memory.mem_write hc with rfl | hc
  · exact ha
  · exact h.2 c hc

/-- Table writes are inside the index range by the width of the index (R55). -/
theorem State.tableWrite_wf (s : State) (i v : Byte) (h : s.crcTable.wf = true) :
    (s.tableWrite i v).crcTable.wf = true :=
  Memory.wf_write h i.isLt

@[simp] theorem State.tableRead_tableWrite_self (s : State) (i v : Byte) :
    (s.tableWrite i v).tableRead i = some v := Memory.read_write_self ..

theorem State.tableRead_tableWrite_other (s : State) {i j : Byte} (v : Byte) (h : j ≠ i) :
    (s.tableWrite i v).tableRead j = s.tableRead j :=
  Memory.read_write_other _ _ fun e => h (BitVec.eq_of_toNat_eq e)

/-- A listed cell of a canonical memory is what a read of its address gives. -/
theorem Memory.read_of_mem {m : Memory} (hm : m.wf = true) {a : Nat} {v : Byte} (h : (a, v) ∈ m) : m.read a = some v := by
  have hlt := ((Memory.wf_iff m).mp hm).1
  clear hm
  induction m with
  | nil => simp at h
  | cons c m ih =>
    rw [List.pairwise_cons] at hlt
    rcases List.mem_cons.mp h with rfl | h'
    · simp [Memory.read]
    · have := hlt.1 _ h'
      rw [Memory.read, if_neg (by simp at this; omega)]
      exact ih h' hlt.2

/-- A canonical memory lists nothing past the index range of R55. -/
theorem Memory.read_of_le {m : Memory} (hm : m.wf = true) {a : Nat} (ha : 256 ≤ a) : m.read a = none := by
  have hlt := ((Memory.wf_iff m).mp hm).2
  clear hm
  induction m with
  | nil => rfl
  | cons c m ih =>
    have := hlt c (by simp)
    rw [Memory.read, if_neg (by omega)]
    exact ih fun d hd => hlt d (by simp [hd])

/-- Two canonical memories that read alike are equal. -/
theorem Memory.ext_read {m n : Memory} (hm : m.wf = true) (hn : n.wf = true)
    (h : ∀ a, m.read a = n.read a) : m = n := by
  have absent : ∀ (l : Memory) (a : Nat), (∀ c ∈ l, a < c.1) → l.read a = none := by
    intro l a hl
    induction l with
    | nil => rfl
    | cons c l ih =>
      have h1 := hl c (by simp)
      simp only [Memory.read]
      rw [if_neg (by omega)]
      exact ih fun d hd => hl d (by simp [hd])
  rw [Memory.wf_iff] at hm hn
  obtain ⟨hm, -⟩ := hm
  obtain ⟨hn, -⟩ := hn
  induction m generalizing n with
  | nil =>
    cases n with
    | nil => rfl
    | cons d n => have := h d.1; simp [Memory.read] at this
  | cons c m ih =>
    cases n with
    | nil => have := h c.1; simp [Memory.read] at this
    | cons d n =>
      obtain ⟨a, v⟩ := c
      obtain ⟨b, w⟩ := d
      obtain ⟨hm1, hm2⟩ := List.pairwise_cons.1 hm
      obtain ⟨hn1, hn2⟩ := List.pairwise_cons.1 hn
      have hab : a = b := by
        rcases Nat.lt_trichotomy a b with hlt | heq | hgt
        · have := h a
          rw [absent ((b, w) :: n) a] at this
          · simp [Memory.read] at this
          · intro c hc
            rcases List.mem_cons.1 hc with rfl | hc
            · exact hlt
            · exact Nat.lt_trans hlt (hn1 c hc)
        · exact heq
        · have := h b
          rw [absent ((a, v) :: m) b] at this
          · simp [Memory.read] at this
          · intro c hc
            rcases List.mem_cons.1 hc with rfl | hc
            · exact hgt
            · exact Nat.lt_trans hgt (hm1 c hc)
      subst hab
      have hvw : v = w := by have := h a; simpa [Memory.read] using this
      subst hvw
      congr 1
      refine ih (fun x => ?_) hm2 hn2
      by_cases hx : a = x
      · subst hx; rw [absent m a hm1, absent n a hn1]
      · have := h x; simpa [Memory.read, hx] using this

end Sys2Proof.Machine
end

