-- ==== Sys2Proof/Laws/Crc.lean ====
section
/-!
SUPPORT. What building the CRC table does: which entries it writes, that it writes nothing else, and that the table stays canonical.
-/
namespace Sys2Proof.Machine

/-- Writing entries changes the table only. -/
theorem buildEntries_frame (is : List Nat) (s : State) : ∃ m, buildEntries is s = s.setCrcTable m := by
  induction is generalizing s with
  | nil => exact ⟨s.crcTable, rfl⟩
  | cons i is ih =>
    obtain ⟨m, hm⟩ := ih (s.tableWrite (BitVec.ofNat 8 i) (crcTableEntry (BitVec.ofNat 8 i)))
    exact ⟨m, hm⟩

/-- Every index of the list gets its entry; every other index keeps its own. -/
theorem buildEntries_read (is : List Nat) (s : State) (hlt : ∀ x ∈ is, x < 256) (i : Byte) :
    (buildEntries is s).tableRead i = if i.toNat ∈ is then some (crcTableEntry i) else s.tableRead i := by
  induction is generalizing s with
  | nil => simp [buildEntries]
  | cons x is ih =>
    rw [buildEntries, ih _ (fun y hy => hlt y (by simp [hy]))]
    have hx := hlt x (by simp)
    split
    · next h => simp [h]
    · next h =>
      by_cases hix : i = BitVec.ofNat 8 x
      · subst hix; simp [Nat.mod_eq_of_lt hx]
      · rw [State.tableRead_tableWrite_other _ _ hix]
        have : i.toNat ≠ x := fun e => hix (BitVec.eq_of_toNat_eq (by simp [e, Nat.mod_eq_of_lt hx]))
        simp [this, h]

/-- Writing entries keeps the canonical form. -/
theorem buildEntries_wf (is : List Nat) (s : State) (h : s.crcTable.wf = true) :
    (buildEntries is s).crcTable.wf = true := by
  induction is generalizing s with
  | nil => exact h
  | cons i is ih => exact ih _ (State.tableWrite_wf _ _ _ h)

/-- Everything building the table does. -/
theorem buildTable_spec (s : State) :
    ∃ m : Memory, buildTable s = s.setCrcTable m ∧ (s.crcTable.wf = true → m.wf = true) ∧
      ∀ i : Byte, m.read i.toNat = some (crcTableEntry i) := by
  obtain ⟨m, hm⟩ := buildEntries_frame (List.range 256) s
  have hread := buildEntries_read (List.range 256) s (fun x hx => List.mem_range.mp hx)
  have hwf := buildEntries_wf (List.range 256) s
  rw [hm] at hread hwf
  refine ⟨m, hm, hwf, fun i => ?_⟩
  have h := hread i
  rw [if_pos (List.mem_range.mpr i.isLt)] at h
  exact h

end Sys2Proof.Machine
end

