-- ==== Sys2Proof/Laws/Initialize.lean ====
section
/-!
SUPPORT. INITIALIZE: the traffic of each of its steps, and how many exchanges and which chip select a command leaves.
-/
namespace Sys2Proof.Machine

/-! ### One command -/

/-- A poll takes at least one exchange. -/
theorem PollEnds.pos {α : Type} {limit : Nat} {stop : α → Bool} {results : List α} {last : α}
    (h : PollEnds limit stop results last) : 1 ≤ results.length := by
  cases results with
  | nil => have := h.ends; simp at this
  | cons _ _ => simp

/-- The exchanges of one command (R150), and the chip select it leaves (R146, R147). -/
theorem PlainCommand.measure {idx : CommandIndex} {argument : Word32} {es : List LinkEvent} {r : Byte}
    (h : PlainCommand idx argument es r) (c : Bool) :
    (∃ p, 1 ≤ p ∧ p ≤ 10 ∧
      xferCount es = (if idx ∈ [8#6, 9#6, 10#6, 13#6, 17#6, 27#6, 42#6, 58#6] then 8 else 9) + p) ∧
    csAfter c es = decide (idx ∈ [8#6, 9#6, 10#6, 13#6, 17#6, 27#6, 42#6, 58#6]) := by
  obtain ⟨d₁, d₂, d₃, frame, received, polls, hf, -, hr, hpoll, rfl⟩ := h
  have hz : xferCount (List.zipWith (LinkEvent.xfer true) frame received) = 6 := by
    rw [xferCount, drivenBytes_zipWith_xfer true (by omega), hf]
  refine ⟨⟨polls.length, hpoll.pos, hpoll.within, ?_⟩, ?_⟩
  · split <;> simp [hz] <;> omega
  · split
    · next hk => simp only [decide_eq_true hk]; simp [csAfter]
    · next hk => simp only [decide_eq_false hk]; simp [csAfter]

/-- The exchanges of a bounded number of rounds. -/
theorem xferCount_flatten_le {ess : List (List LinkEvent)} {n : Nat} (h : ∀ es ∈ ess, xferCount es ≤ n) :
    xferCount ess.flatten ≤ ess.length * n := by
  induction ess with
  | nil => simp
  | cons es ess ih =>
    have h1 := h es (by simp)
    have h2 := ih fun x hx => h x (by simp [hx])
    simp only [List.flatten_cons, xferCount_append, List.length_cons, Nat.add_mul]
    omega

theorem le_xferCount_flatten {ess : List (List LinkEvent)} {n : Nat} (h : ∀ es ∈ ess, n ≤ xferCount es) :
    ess.length * n ≤ xferCount ess.flatten := by
  induction ess with
  | nil => simp
  | cons es ess ih =>
    have h1 := h es (by simp)
    have h2 := ih fun x hx => h x (by simp [hx])
    simp only [List.flatten_cons, xferCount_append, List.length_cons, Nat.add_mul]
    omega

/-! ### The steps of INITIALIZE -/

theorem powerSettle_run (n : Nat) (s : State) :
    ∃ rs : List Byte, rs.length = n ∧
      LinkRun s (powerSettle n s) ([.desel] ++ rs.map (LinkEvent.xfer false 0xFF#8)) := by
  obtain ⟨rs, hlen, hrun⟩ := dummies_run n (deselect s)
  exact ⟨rs, hlen, (deselect_run s).trans hrun⟩

/-- A command without the ACMD flag, from its command byte. -/
theorem sendCommand_plain_run {command : Byte} (hf : acmdFlag command = false) (argument : Word32) (s : State) :
    ∃ es, LinkRun s (sendCommand command argument s).2 es ∧
      PlainCommand (commandIndex command) argument es (sendCommand command argument s).1.value := by
  obtain ⟨es, hrun, hplain, -⟩ := sendPlain_run (commandIndex command) argument s
  rw [sendCommand_plain hf]
  exact ⟨es, hrun, hplain⟩

theorem setBlockLength_run (s : State) :
    ∃ es r, LinkRun s (setBlockLength s) es ∧ PlainCommand 16#6 512#32 es r := by
  obtain ⟨es, hrun, hplain⟩ := sendCommand_plain_run (command := 0x50#8) (by decide) 512#32 s
  exact ⟨es, _, hrun, hplain⟩

theorem probeIfCond_run (s : State) :
    ∃ es, LinkRun s (probeIfCond s).2 es ∧ PlainCommand 8#6 0x1AA#32 es (probeIfCond s).1.value :=
  sendCommand_plain_run (command := 0x48#8) (by decide) 0x1AA#32 s

theorem probeOcr_run (s : State) :
    ∃ es, LinkRun s (probeOcr s).2 es ∧ PlainCommand 58#6 0#32 es (probeOcr s).1.value :=
  sendCommand_plain_run (command := 0x7A#8) (by decide) 0#32 s

/-- A loop whose rounds are SEND_COMMANDs: the rounds with their replies. -/
theorem commandLoop_run (limit : Nat) (hlimit : limit ≠ 0) (command : Byte) (argument : Word32) (stop : Reply → Bool)
    (s : State) :
    ∃ rounds : List (List LinkEvent × Reply),
      PollEnds limit stop (rounds.map Prod.snd) (repeatWithin limit (sendCommand command argument) stop s).1 ∧
      LinkRun s (repeatWithin limit (sendCommand command argument) stop s).2 (rounds.map Prod.fst).flatten ∧
      ∀ x ∈ rounds, CommandTraffic command argument x.1 x.2.status x.2.value := by
  obtain ⟨rounds, hends, hrun, hall, -⟩ :=
    repeatUntil_run (I := fun _ => True) (T := fun es (x : Reply) => CommandTraffic command argument es x.status x.value)
      (body := sendCommand command argument) (stop := stop)
      (fun s _ => by
        obtain ⟨es, h, k⟩ := sendCommand_run command argument s
        exact ⟨es, h, k, trivial⟩) (limit - 1) s trivial
  rw [Nat.sub_add_cancel (Nat.one_le_iff_ne_zero.2 hlimit)] at hends
  exact ⟨rounds, hends, hrun, hall⟩

end Sys2Proof.Machine
end

