-- ==== Sys2Proof/Laws/PerInstr.lean ====
section
/-!
SUPPORT. The family `TableRow`: the encoding of every instruction is a word of its own row of spec/opcode_table.json.
-/
namespace Sys2Proof.Laws.TableRow

/-- The encoded instruction matches the mask and the pattern of the row with its mnemonic. -/
def Statement (i : Instr) : Prop := ∃ r ∈ opcodeTable, r.mnemonic = mnemonic i ∧ r.covers (encode i) = true

/-- A row of the table, and that the word agrees with it bit by bit. -/
theorem of_row {i : Instr} (r : TableRow) (hr : r ∈ opcodeTable) (hm : r.mnemonic = mnemonic i)
    (hf : r.format = (encode i).format)
    (hw : ∀ k < 48, ((encode i).word.getLsbD k && r.mask.getLsbD k) = r.pattern.getLsbD k) : Statement i := by
  refine ⟨r, hr, hm, ?_⟩
  have : (encode i).word &&& r.mask = r.pattern := BitVec.eq_of_getLsbD_eq fun k hk => by simpa using hw k hk
  simp [TableRow.covers, hf, this]

theorem exchange (b : Byte) : Statement (.exchange b) := by
  refine of_row (opcodeTable[0]) (by decide) rfl rfl fun k hk => ?_
  interval_cases k <;> simp only [encode, requestWord, BitVec.getLsbD_append] <;> simp [opcodeTable, requestRows, frameRows]

theorem select : Statement .select := by unfold Statement; decide

theorem deselect : Statement .deselect := by unfold Statement; decide

theorem crcBuild : Statement .crcBuild := by unfold Statement; decide

theorem crcExtend (c : Crc7) (b : Byte) : Statement (.crcExtend c b) := by
  refine of_row (opcodeTable[4]) (by decide) rfl rfl fun k hk => ?_
  interval_cases k <;> simp only [encode, requestWord, BitVec.getLsbD_append] <;> simp [opcodeTable, requestRows, frameRows]

theorem sendCommand (k : Byte) (a : Word32) : Statement (.sendCommand k a) := by
  refine of_row (opcodeTable[5]) (by decide) rfl rfl fun k hk => ?_
  interval_cases k <;> simp only [encode, requestWord, BitVec.getLsbD_append] <;> simp [opcodeTable, requestRows, frameRows]

theorem waitToken : Statement .waitToken := by unfold Statement; decide

theorem decodeErrorToken (t : Byte) : Statement (.decodeErrorToken t) := by
  refine of_row (opcodeTable[7]) (by decide) rfl rfl fun k hk => ?_
  interval_cases k <;> simp only [encode, requestWord, BitVec.getLsbD_append] <;> simp [opcodeTable, requestRows, frameRows]

theorem initializeCard : Statement .initializeCard := by unfold Statement; decide

theorem status : Statement .status := by unfold Statement; decide

theorem goIdleState : Statement .goIdleState := by unfold Statement; decide

theorem sdSendOpCondLegacy : Statement .sdSendOpCondLegacy := by unfold Statement; decide

theorem sendIfCond : Statement .sendIfCond := by unfold Statement; decide

theorem sendCsd : Statement .sendCsd := by unfold Statement; decide

theorem sendCid : Statement .sendCid := by unfold Statement; decide

theorem sendStatus : Statement .sendStatus := by unfold Statement; decide

theorem setBlocklen (n : Word32) : Statement (.setBlocklen n) := by
  refine of_row (opcodeTable[16]) (by decide) rfl rfl fun k hk => ?_
  interval_cases k <;> simp only [encode, frameWord, BitVec.getLsbD_append] <;> simp [opcodeTable, requestRows, frameRows]

theorem readSingleBlock (a : Word32) : Statement (.readSingleBlock a) := by
  refine of_row (opcodeTable[17]) (by decide) rfl rfl fun k hk => ?_
  interval_cases k <;> simp only [encode, frameWord, BitVec.getLsbD_append] <;> simp [opcodeTable, requestRows, frameRows]

theorem programCsd : Statement .programCsd := by unfold Statement; decide

theorem lockUnlock : Statement .lockUnlock := by unfold Statement; decide

theorem appCmd : Statement .appCmd := by unfold Statement; decide

theorem readOcr : Statement .readOcr := by unfold Statement; decide

theorem sdSendOpCond : Statement .sdSendOpCond := by unfold Statement; decide

end Sys2Proof.Laws.TableRow
end

