-- ==== Sys2Proof/Tests/Slice0.lean ====
section
/-!
SUPPORT. The model's own tests. Expected results are the spec's: 30_encoding for words, 95_test_vectors for runs (the vector is named in
each comment). `test_…` theorems check the model; `witness_…` theorems show, for an obligation with hypotheses, a concrete state and operands that meet
them.
-/
namespace Sys2Proof.Tests
open Sys2Proof Sys2Proof.Machine
set_option Elab.async false

/-! ### Helpers -/

/-- The next state, if there is one. -/
def nextOf {α : Type} : Host.Outcome α Fault Refusal → Option α
  | .next a => some a
  | .fault _ => none
  | .refused _ => none

/-- `n` bytes 0xFF. -/
def ff (n : Nat) : List Byte := List.replicate n 0xFF#8

/-- A card's answers to a command that releases it, with the response on the first poll. -/
def closing (r : Byte) : List Byte := ff 8 ++ [r, 0xFF#8]

/-- A card's answers to a command that keeps it selected, with the response on the first poll. -/
def keeping (r : Byte) : List Byte := ff 8 ++ [r]

/-- The machine after reset, with a card that will answer these bytes. -/
def scripted (answers : List Byte) : State := { State.reset with cardAnswers := answers }

/-- The table of R121. -/
def builtTable : Memory := (List.range 256).map fun i => (i, crcTableEntry (BitVec.ofNat 8 i))

/-- The machine with the table built. -/
def built (answers : List Byte) : State := { scripted answers with crcTable := builtTable, crcTableValid := true }

/-- What is seen of a state: the last response, the number of exchanges, `cs`. -/
def seen (t : State) : ResponseWord × Nat × Bool := (t.lastResponse, xferCount t.history, t.cs)

/-- One step on a word of the opcode table, and what is seen after it. -/
def run (s : State) (w : Nat) : Option (ResponseWord × Nat × Bool) := (nextOf (step (s.withFetchWord 48 w))).map seen

/-- One step on a word of the opcode table, and the bytes driven by it. -/
def driven (s : State) (w : Nat) : Option (List Byte) :=
  (nextOf (step (s.withFetchWord 48 w))).map fun t => drivenBytes t.history

/-- One client operation: how it ends. -/
def ends (s : State) (op : ClientOp) : Option ClientResult := (nextOf (clientOp op s)).map Prod.fst

/-! ### Well-formedness (R88) -/

theorem test_wellFormed_refuses_xchg : (AsmLine.xchg 0x100).wellFormed = false := by decide
theorem test_wellFormed_refuses_crcx_crc : (AsmLine.crcx 0x80 0).wellFormed = false := by decide
theorem test_wellFormed_refuses_crcx_byte : (AsmLine.crcx 0 0x100).wellFormed = false := by decide
theorem test_wellFormed_refuses_cmd_code : (AsmLine.cmd 0x100 0).wellFormed = false := by decide
theorem test_wellFormed_refuses_cmd_argument : (AsmLine.cmd 0 0x100000000).wellFormed = false := by decide
theorem test_wellFormed_refuses_dtok : (AsmLine.dtok 0x100).wellFormed = false := by decide
theorem test_wellFormed_refuses_setBlocklen : (AsmLine.setBlocklen 0x100000000).wellFormed = false := by decide
theorem test_wellFormed_refuses_readSingleBlock : (AsmLine.readSingleBlock 0x100000000).wellFormed = false := by decide
theorem test_wellFormed_accepts_the_largest :
    (AsmLine.xchg 0xFF).wellFormed && (AsmLine.crcx 0x7F 0xFF).wellFormed && (AsmLine.cmd 0xFF 0xFFFFFFFF).wellFormed = true := by
  decide

/-! ### Decoding: the bits of 30_encoding R70, R71 and R80 -/

/-- The host requests: OP, RSV, A, B. -/
theorem test_decode_requests :
    decode ⟨.hostRequest, 0b0001_0000_01011010_00000000000000000000000000000000#48⟩ = .ok (.exchange 0x5A#8) ∧
    decode ⟨.hostRequest, 0b0010_0000_00000000_00000000000000000000000000000000#48⟩ = .ok .select ∧
    decode ⟨.hostRequest, 0b0011_0000_00000000_00000000000000000000000000000000#48⟩ = .ok .deselect ∧
    decode ⟨.hostRequest, 0b0100_0000_00000000_00000000000000000000000000000000#48⟩ = .ok .crcBuild ∧
    decode ⟨.hostRequest, 0b0101_0000_11111110_00000000000000000000000001111111#48⟩ = .ok (.crcExtend 0x7F#7 0xFE#8) ∧
    decode ⟨.hostRequest, 0b0110_0000_11101001_01000000000000000000000000000001#48⟩ =
      .ok (.sendCommand 0xE9#8 0x40000001#32) ∧
    decode ⟨.hostRequest, 0b0111_0000_00000000_00000000000000000000000000000000#48⟩ = .ok .waitToken ∧
    decode ⟨.hostRequest, 0b1000_0000_00011111_00000000000000000000000000000000#48⟩ = .ok (.decodeErrorToken 0x1F#8) ∧
    decode ⟨.hostRequest, 0b1001_0000_00000000_00000000000000000000000000000000#48⟩ = .ok .initializeCard ∧
    decode ⟨.hostRequest, 0b1010_0000_00000000_00000000000000000000000000000000#48⟩ = .ok .status := by decide

/-- The SD frames: 0b01, the index, the argument, the CRC byte. -/
theorem test_decode_frames :
    decode ⟨.sdFrame, 0b01_000000_00000000000000000000000000000000_10010101#48⟩ = .ok .goIdleState ∧
    decode ⟨.sdFrame, 0b01_000001_00000000000000000000000000000000_00000001#48⟩ = .ok .sdSendOpCondLegacy ∧
    decode ⟨.sdFrame, 0b01_001000_00000000000000000000000110101010_10000111#48⟩ = .ok .sendIfCond ∧
    decode ⟨.sdFrame, 0b01_001001_00000000000000000000000000000000_00000001#48⟩ = .ok .sendCsd ∧
    decode ⟨.sdFrame, 0b01_001010_00000000000000000000000000000000_00000001#48⟩ = .ok .sendCid ∧
    decode ⟨.sdFrame, 0b01_001101_00000000000000000000000000000000_00000001#48⟩ = .ok .sendStatus ∧
    decode ⟨.sdFrame, 0b01_010000_00000000000000000000001000000000_00000001#48⟩ = .ok (.setBlocklen 512#32) ∧
    decode ⟨.sdFrame, 0b01_010001_10000000000000000000000000000011_00000001#48⟩ =
      .ok (.readSingleBlock 0x80000003#32) ∧
    decode ⟨.sdFrame, 0b01_011011_00000000000000000000000000000000_00000001#48⟩ = .ok .programCsd ∧
    decode ⟨.sdFrame, 0b01_101010_00000000000000000000000000000000_00000001#48⟩ = .ok .lockUnlock ∧
    decode ⟨.sdFrame, 0b01_110111_00000000000000000000000000000000_00000001#48⟩ = .ok .appCmd ∧
    decode ⟨.sdFrame, 0b01_111010_00000000000000000000000000000000_00000001#48⟩ = .ok .readOcr ∧
    decode ⟨.sdFrame, 0b01_101001_01000000000000000000000000000000_00000001#48⟩ = .ok .sdSendOpCond := by decide

/-- No two rows of one format share a word. -/
theorem test_rows_do_not_overlap :
    requestRows.Pairwise (fun r r' => r.pattern &&& r.mask &&& r'.mask ≠ r'.pattern &&& r.mask &&& r'.mask) ∧
    frameRows.Pairwise (fun r r' => r.pattern &&& r.mask &&& r'.mask ≠ r'.pattern &&& r.mask &&& r'.mask) := by decide

/-- The table's rows are the 23 of spec/opcode_table.json, every pattern inside its mask. -/
theorem test_rows_are_patterns : opcodeTable.length = 23 ∧ ∀ r ∈ opcodeTable, r.pattern &&& r.mask = r.pattern := by decide

/-- The word of `CRCX 0x01, 0x34` is also the frame of SET_BLOCKLEN(0x34000000): read as the frame, but each in its own format
(entry 5). -/
theorem test_overlapping_word :
    decodeTableWord 48 0x503400000001 = some (.setBlocklen 0x34000000#32) ∧
    decode ⟨.hostRequest, 0x503400000001#48⟩ = .ok (.crcExtend 1#7 0x34#8) := by decide

/-- 95_test_vectors 2.4: every word of the list is illegal. -/
theorem test_illegal_words :
    ∀ w ∈ [0x000000000000, 0xB00000000000, 0xF00000000000, 0x11FF00000000, 0x10FF00000001, 0x200100000000, 0x400000000001,
        0x5000FFFFFF80, 0x684000000000, 0x700000000001, 0x800500000100, 0x900100000000, 0xA00000000001],
      run State.reset w = some (0xF000#16, 0, false) := by decide +kernel

/-! ### Reset and memory -/

theorem test_reset_memory_is_canonical : State.reset.crcTable.wf = true := by decide
theorem test_built_table_is_canonical : builtTable.wf = true := by
  simp [Memory.wf, builtTable, List.pairwise_map, List.pairwise_lt_range]

/-- R32, R33: the block's values, and the card's next answer. -/
theorem test_blockReset :
    (nextOf (step { built [0x05#8] with cs := true, cardType := .highCapacity, history := [.sel], work := [.blockReset] })).map
      (fun t => (statusByte t.cs t.crcTableValid t.cardType, t.history, t.cardAnswers)) =
      some (0x00#8, [], [0x05#8]) := by decide +kernel

/-- 95_test_vectors 2.3, row 1. -/
theorem test_status_after_reset : run State.reset 0xA00000000000 = some (0x0000#16, 0, false) := by decide +kernel

/-! ### EXCHANGE, SELECT, DESELECT, STATUS (95_test_vectors 2.3) -/

theorem test_exchange : run { scripted [0xA5#8] with cs := true } 0x105A00000000 = some (0x00A5#16, 1, true) := by decide +kernel
theorem test_exchange_event :
    (nextOf (step ({ scripted [0xA5#8] with cs := true }.withFetchWord 48 0x105A00000000))).map (·.history) =
      some [.xfer true 0x5A#8 0xA5#8] := by decide +kernel
theorem test_select_again :
    (nextOf (step ({ State.reset with cs := true }.withFetchWord 48 0x200000000000))).map (fun t => (seen t, t.history)) =
      some ((0x0000#16, 0, true), [.sel]) := by decide +kernel
theorem test_deselect : run { State.reset with cs := true } 0x300000000000 = some (0x0000#16, 0, false) := by decide +kernel
theorem test_status :
    run { State.reset with cs := true, cardType := .highCapacity, crcTableValid := true } 0xA00000000000 =
      some (0x000E#16, 0, true) := by decide +kernel

/-! ### CRC-7 (95_test_vectors 2.1, 2.2) -/

theorem test_crcBuild : (nextOf (step (State.reset.withFetchWord 48 0x400000000000))).map
    (fun t => (t.crcTableValid, t.lastResponse, t.history)) = some (true, 0x0000#16, []) := by decide +kernel
theorem test_crcBuild_entries :
    (buildEntries [0x40, 0x01, 0x01] State.reset).crcTable = [(0x01, 0x09#8), (0x40, 0x64#8)] := by decide +kernel
/-- `Table[0x01]`, `Table[0x40]`, `Table[0x80]`, `Table[0xFF]` (S1). -/
theorem test_table_values :
    [0x01#8, 0x40#8, 0x80#8, 0xFF#8].map crcTableEntry = [0x09#8, 0x64#8, 0x41#8, 0x79#8] := by decide
theorem test_crcExtend :
    run (built []) 0x50770000003B = some (0x0009#16, 0, false) ∧ run (built []) 0x50000000007F = some (0x0070#16, 0, false) := by
  decide +kernel
theorem test_crcExtend_not_ready : run State.reset 0x504000000000 = some (0xE000#16, 0, false) := by decide +kernel
/-- The frame CRCs of GO_IDLE_STATE and SEND_IF_COND, and 95_test_vectors P4 and S10. -/
theorem test_crc7_values :
    crc7 [0x40#8, 0x00#8, 0x00#8, 0x00#8, 0x00#8] = 0x4A#7 ∧ crc7 [0x48#8, 0x00#8, 0x00#8, 0x01#8, 0xAA#8] = 0x43#7 ∧
    crc7 (List.replicate 14 0x00#8 ++ [0x10#8]) = 0x19#7 := by decide +kernel

/-! ### SEND_COMMAND (95_test_vectors 2.5) -/

/-- The short circuit: one frame only. -/
theorem test_sendCommand_short_circuit :
    run (scripted (closing 0x05#8)) 0x60E940000000 = some (0x3005#16, 10, false) := by decide +kernel
/-- The poll budget, at its last byte. -/
theorem test_sendCommand_last_poll :
    run (scripted (ff 17 ++ [0x00#8])) 0x604900000000 = some (0x0000#16, 18, true) ∧
    run (scripted (ff 17 ++ [0x89#8])) 0x604900000000 = some (0x2089#16, 18, true) := by decide +kernel

/-! ### The SD commands: the bytes driven, frame and phase (95_test_vectors 1.2) -/

theorem test_goIdleState : driven (scripted (closing 0x01#8)) 0x400000000095 =
    some [0xFF#8, 0xFF#8, 0x40#8, 0x00#8, 0x00#8, 0x00#8, 0x00#8, 0x95#8, 0xFF#8, 0xFF#8] := by decide +kernel
theorem test_sdSendOpCondLegacy : driven (scripted (closing 0x00#8)) 0x410000000001 =
    some [0xFF#8, 0xFF#8, 0x41#8, 0x00#8, 0x00#8, 0x00#8, 0x00#8, 0x01#8, 0xFF#8, 0xFF#8] := by decide +kernel
theorem test_sendIfCond : driven (scripted (keeping 0x01#8)) 0x48000001AA87 =
    some [0xFF#8, 0xFF#8, 0x48#8, 0x00#8, 0x00#8, 0x01#8, 0xAA#8, 0x87#8, 0xFF#8] := by decide +kernel
theorem test_sendCsd : driven (scripted (keeping 0x00#8)) 0x490000000001 =
    some [0xFF#8, 0xFF#8, 0x49#8, 0x00#8, 0x00#8, 0x00#8, 0x00#8, 0x01#8, 0xFF#8] := by decide +kernel
theorem test_sendCid : driven (scripted (keeping 0x00#8)) 0x4A0000000001 =
    some [0xFF#8, 0xFF#8, 0x4A#8, 0x00#8, 0x00#8, 0x00#8, 0x00#8, 0x01#8, 0xFF#8] := by decide +kernel
theorem test_sendStatus : driven (scripted (keeping 0x00#8)) 0x4D0000000001 =
    some [0xFF#8, 0xFF#8, 0x4D#8, 0x00#8, 0x00#8, 0x00#8, 0x00#8, 0x01#8, 0xFF#8] := by decide +kernel
theorem test_setBlocklen : driven (scripted (closing 0x00#8)) 0x500000020001 =
    some [0xFF#8, 0xFF#8, 0x50#8, 0x00#8, 0x00#8, 0x02#8, 0x00#8, 0x01#8, 0xFF#8, 0xFF#8] := by decide +kernel
theorem test_readSingleBlock : driven (scripted (keeping 0x00#8)) 0x510001234501 =
    some [0xFF#8, 0xFF#8, 0x51#8, 0x00#8, 0x01#8, 0x23#8, 0x45#8, 0x01#8, 0xFF#8] := by decide +kernel
theorem test_programCsd : driven (scripted (keeping 0x00#8)) 0x5B0000000001 =
    some [0xFF#8, 0xFF#8, 0x5B#8, 0x00#8, 0x00#8, 0x00#8, 0x00#8, 0x01#8, 0xFF#8] := by decide +kernel
theorem test_lockUnlock : driven (scripted (keeping 0x00#8)) 0x6A0000000001 =
    some [0xFF#8, 0xFF#8, 0x6A#8, 0x00#8, 0x00#8, 0x00#8, 0x00#8, 0x01#8, 0xFF#8] := by decide +kernel
theorem test_appCmd : driven (scripted (closing 0x01#8)) 0x770000000001 =
    some [0xFF#8, 0xFF#8, 0x77#8, 0x00#8, 0x00#8, 0x00#8, 0x00#8, 0x01#8, 0xFF#8, 0xFF#8] := by decide +kernel
theorem test_readOcr : driven (scripted (keeping 0x00#8)) 0x7A0000000001 =
    some [0xFF#8, 0xFF#8, 0x7A#8, 0x00#8, 0x00#8, 0x00#8, 0x00#8, 0x01#8, 0xFF#8] := by decide +kernel
theorem test_sdSendOpCond : driven (scripted (closing 0x01#8 ++ closing 0x00#8)) 0x694000000001 =
    some [0xFF#8, 0xFF#8, 0x77#8, 0x00#8, 0x00#8, 0x00#8, 0x00#8, 0x01#8, 0xFF#8, 0xFF#8,
      0xFF#8, 0xFF#8, 0x69#8, 0x40#8, 0x00#8, 0x00#8, 0x00#8, 0x01#8, 0xFF#8, 0xFF#8] := by decide +kernel

/-! ### WAIT_TOKEN and DECODE_ERROR_TOKEN (95_test_vectors 2.6, 2.7) -/

theorem test_waitToken : run (scripted (ff 99 ++ [0xFE#8])) 0x700000000000 = some (0x00FE#16, 100, false) := by decide +kernel
theorem test_waitToken_budget : run (scripted (ff 100 ++ [0xFE#8])) 0x700000000000 = some (0x20FF#16, 100, false) := by
  decide +kernel
theorem test_decodeErrorToken :
    [0x00#8, 0x01#8, 0x0B#8, 0x11#8, 0x1F#8, 0x20#8, 0xFE#8].map
      (fun k => (nextOf (exec (.decodeErrorToken k) State.reset)).map State.lastResponse) =
    [some 0x4000#16, some 0x4000#16, some 0x400A#16, some 0x4010#16, some 0x401E#16, some 0x0000#16, some 0x0000#16] := by
  decide +kernel

/-! ### INITIALIZE (95_test_vectors 2.8) -/

/-- P3: a high-capacity card. -/
def highCapacityCard : List Byte :=
  ff 10 ++ closing 0x01#8 ++ closing 0x01#8 ++ keeping 0x01#8 ++ [0x00#8, 0x00#8, 0x01#8, 0xAA#8] ++ closing 0x01#8 ++
    closing 0x00#8 ++ ff 1

/-- P5: a standard-capacity card. -/
def standardCapacityCard : List Byte :=
  ff 10 ++ closing 0x01#8 ++ closing 0x00#8 ++ keeping 0x05#8 ++ keeping 0x01#8 ++ [0x00#8, 0xFF#8, 0x80#8, 0x00#8] ++
    closing 0x01#8 ++ closing 0x01#8 ++ closing 0x01#8 ++ closing 0x01#8 ++ closing 0x00#8 ++ closing 0x00#8 ++ ff 1

/-- A card that refuses both probes: Unknown. -/
def unknownCard : List Byte := ff 10 ++ closing 0x01#8 ++ closing 0x00#8 ++ keeping 0x05#8 ++ keeping 0x05#8 ++ ff 1

theorem test_initialize_standard : run (scripted standardCapacityCard) 0x900000000000 = some (0x0001#16, 113, false) := by
  decide +kernel
theorem test_initialize_unknown : run (scripted unknownCard) 0x900000000000 = some (0x0000#16, 49, true) := by decide +kernel

/-! ### The host's sequences (95_test_vectors 2.9) -/

/-- The CSD of P4. -/
def csdOfP4 : List Byte :=
  [0x40#8, 0x0E#8, 0x00#8, 0x32#8, 0x5B#8, 0x59#8, 0x00#8, 0x00#8, 0x3B#8, 0x37#8, 0x7F#8, 0x80#8, 0x0A#8, 0x40#8, 0x00#8,
    0x67#8]

/-- The card of P4: the CSD, then an accepted write that is busy for two exchanges. -/
def cardOfP4 : List Byte :=
  keeping 0x00#8 ++ [0xFE#8] ++ csdOfP4 ++ ff 3 ++ keeping 0x00#8 ++ ff 19 ++ [0x00#8, 0x00#8, 0xFF#8] ++ ff 1

theorem test_readOcr_sequence :
    (nextOf (clientOp .readOcr (scripted (keeping 0x00#8 ++ [0xC0#8, 0xFF#8, 0x80#8, 0x00#8] ++ ff 1)))).map
      (fun r => (r.1, r.2.host.ocr, xferCount r.2.history)) = some (.ok, [0xC0#8, 0xFF#8, 0x80#8, 0x00#8], 14) := by
  decide +kernel
theorem test_readCsd_error_token :
    ends (scripted (keeping 0x00#8 ++ [0x08#8] ++ ff 1)) (.readRegister .csd) =
      some (.fail (.dataError 0x08#8) (.raw 0x08#8)) := by decide +kernel
theorem test_locked :
    ends { State.reset with host := { ClientState.reset with stat := [0x00#8, 0x01#8], statV := true } } .queryLocked =
      some (.locked true) := by decide +kernel
/-- P4: 61 exchanges, the CSD CRC byte 0x55. -/
theorem test_setTemporaryLock :
    (nextOf (clientOp (.setTemporaryLock true) (built cardOfP4))).map
      (fun r => (r.1, xferCount r.2.history, (drivenBytes r.2.history).getD 54 0#8, r.2.host.csdV)) =
      some (.ok, 61, 0x55#8, false) := by decide +kernel
/-- S6, with the length and the mask of R258 and R260. -/
theorem test_passwordPayload :
    passwordPayload 0x0F#8 (List.replicate 16 0x31#8) 16 =
      [0x07#8, 0x10#8] ++ List.replicate 16 0x31#8 ++ List.replicate 494 0xFF#8 := by decide +kernel
theorem test_modifyPassword_rejected :
    (nextOf (modifyPasswordWith (Vector.replicate 16 0x31#8) 16 0x0F#8 (scripted (keeping 0x04#8 ++ ff 1)))).map
      (fun r => (r.1, xferCount r.2.history)) = some (.fail .protocolError (.raw 0x04#8), 10) := by decide +kernel
/-- S7. -/
theorem test_forceErase :
    (nextOf (clientOp .forceErase (scripted (closing 0x00#8 ++ keeping 0x00#8 ++ ff 3)))).map
      (fun r => (r.1, (drivenBytes r.2.history).drop 10)) =
      some (.ok, [0xFF#8, 0xFF#8, 0x6A#8, 0x00#8, 0x00#8, 0x00#8, 0x00#8, 0x01#8, 0xFF#8, 0xFE#8, 0x08#8, 0xFF#8]) := by
  decide +kernel

/-! ### Witnesses: states and operands that meet the hypotheses of the obligations -/

theorem exists_next {α : Type} {o : Host.Outcome α Fault Refusal} (h : (nextOf o).isSome = true) : ∃ a, o = .next a := by
  cases o with
  | next a => exact ⟨a, rfl⟩
  | fault r => simp [nextOf] at h
  | refused r => simp [nextOf] at h

/-- An outcome whose next state is seen through `f`. -/
theorem exists_next_of_map {α β : Type} {o : Host.Outcome α Fault Refusal} {f : α → β} {b : β}
    (h : (nextOf o).map f = some b) : ∃ a, o = .next a ∧ f a = b := by
  cases o with
  | next a => exact ⟨a, rfl, by simpa [nextOf] using h⟩
  | fault r => simp [nextOf] at h
  | refused r => simp [nextOf] at h

/-- A client operation that ends so. -/
theorem exists_end {o : ClientOutcome} {r : ClientResult} (h : (nextOf o).map Prod.fst = some r) : ∃ t, o = .next (r, t) := by
  obtain ⟨⟨r', t⟩, ho, rfl⟩ := exists_next_of_map h
  exact ⟨t, ho⟩

/-- INITIALIZE that answers so, from a state that has answered nothing. -/
theorem exists_answer {s : State} {i : Instr} {y : ResponseWord} (hs : s.responses = [])
    (h : (nextOf (exec i s)).map (·.responses) = some [y]) :
    ∃ t, exec i s = .next t ∧ t.responses = s.responses ++ [y] := by
  obtain ⟨t, ht, hy⟩ := exists_next_of_map h
  exact ⟨t, ht, by rw [hs]; exact hy⟩

/-- A state with the card selected. -/
def selected : State := { State.reset with cs := true, history := [.sel] }

/-- A state with one item of work. -/
def given (item : WorkItem) : State := { State.reset with work := [item] }

theorem built_reads (answers : List Byte) (i : Byte) :
    (built answers).tableRead i = some ((crc7 [i]).setWidth 8) := by
  have hentry : ∀ i : Byte, crcTableEntry i = (crc7 [i]).setWidth 8 := by decide +kernel
  rw [← hentry]
  refine Memory.read_of_mem test_built_table_is_canonical (List.mem_map.2 ⟨i.toNat, List.mem_range.2 i.isLt, ?_⟩)
  rw [BitVec.ofNat_toNat, BitVec.setWidth_eq]

theorem reset_host_sized : ClientState.reset.sized := by unfold ClientState.sized; decide +kernel

theorem selected_inv : selected.Inv where
  link := by unfold State.LinkInv; decide
  table := by unfold State.TableInv; decide
  response := by intro y hy; simp [selected, State.reset] at hy
  host := reset_host_sized
  sequencer := rfl

theorem built_inv (answers : List Byte) : (built answers).Inv where
  link := ⟨rfl, rfl⟩
  table := ⟨test_built_table_is_canonical, built_reads answers⟩
  response := by intro y hy; simp [built, scripted, State.reset] at hy
  host := reset_host_sized
  sequencer := rfl

theorem witness_DecodeOfEncodeIsTheInstruction : (Instr.crcExtend 0x7F#7 0xFE#8).wellFormed = true := rfl

theorem witness_EncodeOfDecodeIsTheWord :
    decode ⟨.hostRequest, 0x50FE0000007F#48⟩ = .ok (.crcExtend 0x7F#7 0xFE#8) := by decide

theorem witness_DecoderAcceptsExactlyTheTableRows :
    decode ⟨.sdFrame, 0x51FFFFFFFF01#48⟩ = .ok (.readSingleBlock 0xFFFFFFFF#32) ∧
    ∃ r ∈ opcodeTable, r.covers ⟨.hostRequest, 0x60FFFFFFFFFF#48⟩ = true := by decide

theorem witness_StepRunsTheDecodedInstruction :
    (given (.word ⟨.hostRequest, 0x200000000000#48⟩)).sequencer = .idle ∧
    (given (.word ⟨.hostRequest, 0x200000000000#48⟩)).work = [.word ⟨.hostRequest, 0x200000000000#48⟩] ∧
    decode ⟨.hostRequest, 0x200000000000#48⟩ = .ok .select := by decide

/-- A word for each clause, at the ends of its range. -/
theorem witness_IllegalRequestIsAnsweredAndChangesNothing :
    (∀ w : Word48, (given (.word ⟨.hostRequest, w⟩)).sequencer = .idle ∧
      (given (.word ⟨.hostRequest, w⟩)).work = [.word ⟨.hostRequest, w⟩]) ∧
    (0x000000000000#48).toNat / 2 ^ 44 = 0 ∧
    0xB ≤ (0xB00000000000#48).toNat / 2 ^ 44 ∧ 0xB ≤ (0xFFFFFFFFFFFF#48).toNat / 2 ^ 44 ∧
    (0x610000000000#48).toNat / 2 ^ 40 % 2 ^ 4 ≠ 0 ∧
    ((0xA00100000000#48).toNat / 2 ^ 44 ∈ [0x2, 0x3, 0x4, 0x7, 0x9, 0xA] ∧ (0xA00100000000#48).toNat / 2 ^ 32 % 2 ^ 8 ≠ 0) ∧
    ((0x200000000001#48).toNat / 2 ^ 44 ∈ [0x2, 0x3, 0x4, 0x7, 0x9, 0xA] ∧ (0x200000000001#48).toNat % 2 ^ 32 ≠ 0) ∧
    ((0x800500000100#48).toNat / 2 ^ 44 ∈ [0x1, 0x8] ∧ (0x800500000100#48).toNat % 2 ^ 32 ≠ 0) ∧
    ((0x500000000080#48).toNat / 2 ^ 44 = 0x5 ∧ 2 ^ 7 ≤ (0x500000000080#48).toNat % 2 ^ 32) := by
  refine ⟨fun w => ⟨rfl, rfl⟩, ?_⟩
  decide

theorem witness_BlockWaitsWithNothingToAccept : State.reset.sequencer = .idle ∧ State.reset.work = [] := by decide

/-- A legal request word, an illegal one, and a word of the other format. -/
theorem witness_EveryRequestGetsOneResponse :
    (∀ w, (given (.word w)).sequencer = .idle ∧ (given (.word w)).work = [.word w]) ∧
    (∃ t, step (given (.word ⟨.hostRequest, 0x105A00000000#48⟩)) = .next t) ∧
    (∃ t, step (given (.word ⟨.hostRequest, 0xF00000000000#48⟩)) = .next t) ∧
    ∃ t, step (given (.word ⟨.sdFrame, 0#48⟩)) = .next t := ⟨fun _ => ⟨rfl, rfl⟩, ⟨_, rfl⟩, ⟨_, rfl⟩, _, rfl⟩

theorem witness_EveryStepKeepsTheInvariant : selected.Inv ∧ step selected = .next selected := ⟨selected_inv, rfl⟩

theorem witness_HistoryAndResponsesOnlyGrow :
    (∀ rest, (given (.word ⟨.hostRequest, 0x200000000000#48⟩)).work ≠ .blockReset :: rest) ∧
    ∃ t, step (given (.word ⟨.hostRequest, 0x200000000000#48⟩)) = .next t :=
  ⟨fun rest h => by simp [given] at h, _, rfl⟩

theorem witness_BlockResetLeavesTheCardAlone :
    (given .blockReset).sequencer = .idle ∧ (given .blockReset).work = [.blockReset] := ⟨rfl, rfl⟩

theorem witness_OnlyInitializeWritesTheCardType : Instr.crcBuild ≠ .initializeCard ∧ ∃ t, exec .crcBuild State.reset = .next t :=
  ⟨by decide, _, rfl⟩

theorem witness_ChipSelectAndTableHaveTheirWriters :
    (∃ t, exec .waitToken State.reset = .next t) ∧ (∃ t, exec (.exchange 0#8) State.reset = .next t) ∧
    (∃ t, exec (.crcExtend 0#7 0#8) State.reset = .next t) ∧ (∃ t, exec (.decodeErrorToken 0#8) State.reset = .next t) ∧
    (Instr.initializeCard ≠ .crcBuild ∧ ∃ t, exec .initializeCard State.reset = .next t) :=
  ⟨⟨_, rfl⟩, ⟨_, rfl⟩, ⟨_, rfl⟩, ⟨_, rfl⟩, by decide, _, rfl⟩

theorem witness_TableValidBitOnlyRises :
    (∃ t, exec .select (built []) = .next t ∧ (built []).crcTableValid = true) ∧
    ∃ t, exec .crcBuild State.reset = .next t ∧ State.reset.crcTableValid = false ∧ t.crcTableValid = true :=
  ⟨⟨_, rfl, rfl⟩, _, rfl, rfl, rfl⟩

theorem witness_NoInstructionFaultsOrIsRefused : (built []).Inv := built_inv []

theorem witness_StatusesOfEachInstruction :
    (∃ t, exec (.exchange 0x5A#8) State.reset = .next t) ∧
    (∃ t, exec (.crcExtend 0x7F#7 0xFE#8) (built []) = .next t) ∧
    (∃ t, exec (.crcExtend 0x7F#7 0xFE#8) State.reset = .next t) ∧
    (∃ t, exec .waitToken (scripted (ff 100)) = .next t) ∧
    (∃ t, exec (.decodeErrorToken 0x1F#8) State.reset = .next t) ∧
    (∃ t, exec .initializeCard (scripted unknownCard) = .next t) ∧
    (∃ t, exec (.sendCommand 0x80#8 0#32) (scripted (closing 0x02#8)) = .next t) ∧
    (∃ t, exec .sdSendOpCond (scripted (closing 0x01#8 ++ closing 0x00#8)) = .next t) ∧
    ∃ t, exec .goIdleState (scripted (ff 19)) = .next t :=
  ⟨⟨_, rfl⟩, exists_next (by decide +kernel), ⟨_, rfl⟩, ⟨_, rfl⟩, ⟨_, rfl⟩, ⟨_, rfl⟩, ⟨_, rfl⟩, ⟨_, rfl⟩, _, rfl⟩

theorem witness_HostStateDoesNotInfluenceTheBlock : ∃ t, exec .waitToken State.reset = .next t := ⟨_, rfl⟩

theorem witness_ReceivedBytesAreTheCardsAnswers :
    (∃ t, exec (.exchange 0xFF#8) (scripted [0xA5#8]) = .next t) ∧ ∃ t, exec (.exchange 0xFF#8) (scripted []) = .next t :=
  ⟨⟨_, rfl⟩, _, rfl⟩

theorem witness_LinkInstructionsFrame :
    (linkInstruction (.sendCommand 0x49#8 0#32) = true ∧ ∃ t, exec (.sendCommand 0x49#8 0#32) State.reset = .next t) ∧
    (linkInstruction .waitToken = true ∧ ∃ t, exec .waitToken State.reset = .next t) ∧
    linkInstruction (.exchange 0#8) = true ∧ ∃ t, exec (.exchange 0#8) State.reset = .next t :=
  ⟨⟨rfl, _, rfl⟩, ⟨rfl, _, rfl⟩, rfl, _, rfl⟩

theorem witness_AnswerOnlyInstructionsFrame :
    answerOnlyInstruction .status = true ∧ ∃ t, exec .status State.reset = .next t := ⟨rfl, _, rfl⟩

theorem witness_InitializeFrame : ∃ t, exec .initializeCard (scripted highCapacityCard) = .next t := ⟨_, rfl⟩

theorem witness_SecondCrcBuildChangesNothing :
    State.reset.crcTable.wf = true ∧ ∃ t, exec .crcBuild State.reset = .next t := ⟨rfl, _, rfl⟩

theorem witness_CrcExtendLooksTheTableUp :
    State.reset.crcTableValid = false ∧
    ((built []).crcTableValid = true ∧
      (built []).tableRead (((0x7F#7).setWidth 8 <<< 1) ^^^ 0x00#8) = some ((crc7 [0xFE#8]).setWidth 8)) ∧
    ({ State.reset with crcTableValid := true }.crcTableValid = true ∧
      { State.reset with crcTableValid := true }.tableRead (((0x7F#7).setWidth 8 <<< 1) ^^^ 0x00#8) = none) :=
  ⟨rfl, ⟨rfl, built_reads [] _⟩, rfl, rfl⟩

theorem witness_ChainedCrcExtendComputesCrc7 :
    (built []).crcTableValid = true ∧ ∀ i : Byte, (built []).tableRead i = some ((crc7 [i]).setWidth 8) :=
  ⟨rfl, built_reads []⟩

theorem witness_DataPhaseCommandsKeepTheCardSelected :
    (∃ t, exec .sendCsd State.reset = .next t) ∧ (∃ t, exec (.readSingleBlock 0xFFFFFFFF#32) State.reset = .next t) ∧
    (∃ t, exec .goIdleState State.reset = .next t) ∧ ∃ t, exec (.setBlocklen 1#32) State.reset = .next t :=
  ⟨⟨_, rfl⟩, ⟨_, rfl⟩, ⟨_, rfl⟩, _, rfl⟩

theorem witness_ExchangeCountsOfSendCommand :
    (∃ t, exec (.sendCommand 0x7F#8 0#32) State.reset = .next t) ∧
    (∃ t, exec (.sendCommand 0x80#8 0#32) (scripted (closing 0x01#8)) = .next t) ∧
    ∃ t, exec (.sendCommand 0x80#8 0#32) (scripted (closing 0x02#8)) = .next t := ⟨⟨_, rfl⟩, ⟨_, rfl⟩, _, rfl⟩

theorem witness_SequencerRefinesThePseudocode : State.reset.sequencer = .idle := rfl

theorem witness_InitializeFollowsItsSteps :
    (∃ t, exec .initializeCard (scripted highCapacityCard) = .next t) ∧
    (∃ t, exec .initializeCard (scripted standardCapacityCard) = .next t) ∧
    (∃ t, exec .initializeCard (scripted unknownCard) = .next t) ∧
    ∃ t, exec .initializeCard (scripted (ff 314)) = .next t := ⟨⟨_, rfl⟩, ⟨_, rfl⟩, ⟨_, rfl⟩, _, rfl⟩

theorem witness_InitializeSettlesThenSendsGoIdle : ∃ t, exec .initializeCard (scripted (ff 314)) = .next t := ⟨_, rfl⟩

/-- Each outcome, from 95_test_vectors 2.8. -/
theorem witness_InitializeExchangeBounds :
    (∃ t, exec .initializeCard (scripted (ff 314)) = .next t ∧ t.responses = (scripted (ff 314)).responses ++ [0x1000#16]) ∧
    (∃ t, exec .initializeCard (scripted unknownCard) = .next t ∧
      t.responses = (scripted unknownCard).responses ++ [0x0000#16]) ∧
    (∃ t, exec .initializeCard (scripted standardCapacityCard) = .next t ∧
      t.responses = (scripted standardCapacityCard).responses ++ [0x0001#16]) ∧
    ∃ t, exec .initializeCard (scripted highCapacityCard) = .next t ∧
      t.responses = (scripted highCapacityCard).responses ++ [0x0002#16] :=
  ⟨exists_answer rfl (by decide +kernel), exists_answer rfl (by decide +kernel), exists_answer rfl (by decide +kernel),
    exists_answer rfl (by decide +kernel)⟩

theorem witness_NotDetectedAfterSixteenAttempts :
    ∃ t, exec .initializeCard (scripted (ff 314)) = .next t ∧
      t.responses = (scripted (ff 314)).responses ++ [0x1000#16] := witness_InitializeExchangeBounds.1

theorem witness_AbsentCardIsNotDetected : (scripted (ff 314)).cardAnswers = List.replicate 314 0xFF#8 ++ [] :=
  (List.append_nil _).symm

/-- The host's state after INITIALIZE found a card of this type. -/
def hostWith (c : CardType) : State := { State.reset with host := { ClientState.reset with cardType := c } }

theorem witness_ReadBlockAddressesByCapacity :
    State.reset.host.cardType = .unknown ∧
    ((hostWith .standardCapacity).host.cardType = .standardCapacity ∧ 2 ^ 23 ≤ (0x00800000#32).toNat) ∧
    ((hostWith .standardCapacity).host.cardType = .standardCapacity ∧ (0x007FFFFF#32).toNat < 2 ^ 23) ∧
    (hostWith .highCapacity).host.cardType = .highCapacity := by decide

theorem witness_ReadOcrStoresTheFourBytes :
    (∃ t, clientOp .readOcr (scripted (keeping 0x01#8 ++ ff 5)) = .next (.ok, t)) ∧
    ∃ t, clientOp .readOcr (scripted (keeping 0x02#8 ++ ff 1)) = .next (.fail .protocolError (.raw 0x02#8), t) :=
  ⟨exists_end (by decide +kernel), exists_end (by decide +kernel)⟩

theorem witness_ReadCardStatusStoresTheTwoBytes :
    (∃ t, clientOp .readCardStatus (scripted (keeping 0x7F#8 ++ ff 2)) = .next (.ok, t)) ∧
    ∃ t, clientOp .readCardStatus (scripted (ff 19)) = .next (.fail .timeout (.raw 0xFF#8), t) :=
  ⟨exists_end (by decide +kernel), exists_end (by decide +kernel)⟩

/-- Tokens at the ends of the ranges: 0x1F, 0x20, and none. -/
theorem witness_TokenFailureIsClassified :
    (∃ t, clientOp (.readRegister .cid) (scripted (keeping 0x00#8 ++ [0x1F#8] ++ ff 1)) =
      .next (.fail (.dataError 0x1E#8) (.raw 0x1F#8), t)) ∧
    (∃ t, clientOp (.readRegister .csd) (scripted (keeping 0x00#8 ++ [0x20#8] ++ ff 1)) =
      .next (.fail .protocolError (.raw 0x20#8), t)) ∧
    ∃ t, clientOp (.readBlock 0#32)
      { scripted (keeping 0x00#8 ++ ff 101) with host := { ClientState.reset with cardType := .highCapacity } } =
      .next (.fail .timeout (.raw 0xFF#8), t) :=
  ⟨exists_end (by decide +kernel), exists_end (by decide +kernel), exists_end (by decide +kernel)⟩

theorem witness_InvalidImagesFault :
    State.reset.host.statV = false ∧
    { ClientState.reset with stat := [0x00#8, 0x01#8], statV := true }.statV = true ∧
    { ClientState.reset with stat := [0x00#8, 0x01#8], statV := true }.stat = [0x00#8, 0x01#8] := by decide

theorem witness_FailureInvalidatesEveryImage :
    ∃ t, clientOp .readCardStatus (scripted (ff 19)) = .next (.fail .timeout (.raw 0xFF#8), t) :=
  exists_end (by decide +kernel)

theorem witness_RegisterReadStoresTheSixteenBytes :
    ∃ t, clientOp (.readRegister .csd) (scripted (keeping 0x00#8 ++ [0xFE#8] ++ csdOfP4 ++ ff 3)) = .next (.ok, t) :=
  exists_end (by decide +kernel)

/-- A rejected LOCK_UNLOCK, and an accepted one with a password of the greatest length. -/
theorem witness_ModifyPasswordDrivesTheWholePayload :
    (∃ res t, modifyPasswordWith (Vector.replicate 16 0x31#8) 16 0x0F#8 (scripted (keeping 0x04#8 ++ ff 1)) =
      .next (res, t)) ∧
    (∃ r, cmd 0x6A#8 0#32 (scripted (keeping 0x00#8)) = .next r ∧ accepted r.1 = true) ∧
    ∃ res t, modifyPasswordWith (Vector.replicate 16 0x31#8) 16 0x0F#8 (scripted (keeping 0x00#8)) = .next (res, t) := by
  refine ⟨?_, ?_, ?_⟩
  · obtain ⟨⟨r, t⟩, h⟩ := exists_next (o := modifyPasswordWith (Vector.replicate 16 0x31#8) 16 0x0F#8
      (scripted (keeping 0x04#8 ++ ff 1))) (by decide +kernel)
    exact ⟨r, t, h⟩
  · obtain ⟨r, hr, ha⟩ := exists_next_of_map (o := cmd 0x6A#8 0#32 (scripted (keeping 0x00#8)))
      (f := fun r => accepted r.1) (b := true) (by decide +kernel)
    exact ⟨r, hr, ha⟩
  · have hx : ∀ b : Byte, decode (encode (.exchange b)) = .ok (.exchange b) := by decide +kernel
    have hd : decode (encode .deselect) = .ok .deselect := by decide
    have hc : decode (encode (.sendCommand 0x6A#8 0#32)) = .ok (.sendCommand 0x6A#8 0#32) := by decide
    simp only [modifyPasswordWith]
    obtain ⟨es, st, r, u, hu, -, -⟩ := cmd_run hc
      ((scripted (keeping 0x00#8)).onHost (·.loadPassword (Vector.replicate 16 0x31#8) 16))
    simp only [hu, andThen_next]
    split
    · obtain ⟨rs, v, hv, -, -⟩ := exchangeEach_run hx
        ([Config.startToken] ++ passwordPayload 0x0F#8 u.host.pw u.host.pwLen ++ [Config.fill, Config.fill]) u
      obtain ⟨polls, b, w, hw, -, -⟩ := pollBusy_run (hx _) (Config.busyPollLimit - 1) v
      obtain ⟨d, x, hxx, -⟩ := close_run hd (hx _) w
      simp only [transmit, hv, andThen_next, busyPollAndClose, hw, hxx]
      split
      · exact ⟨_, _, rfl⟩
      · exact ⟨_, _, rfl⟩
    · obtain ⟨d, x, hxx, -⟩ := close_run hd (hx _) u
      exact ⟨_, _, by simp only [closeAndFail, hxx, andThen_next]; rfl⟩

theorem witness_ForceEraseDrivesOneMaskByte :
    (∃ t, clientOp .forceErase (scripted (closing 0x00#8 ++ keeping 0x00#8 ++ ff 3)) = .next (.ok, t)) ∧
    ∃ t, clientOp .forceErase (scripted (closing 0x00#8 ++ keeping 0x04#8 ++ ff 1)) =
      .next (.fail .protocolError (.raw 0x04#8), t) := ⟨exists_end (by decide +kernel), exists_end (by decide +kernel)⟩

theorem witness_TemporaryLockSendsTheCrcOfTheModifiedCsd :
    (built cardOfP4).Inv ∧ (built cardOfP4).crcTableValid = true ∧
    ∃ t, clientOp (.setTemporaryLock true) (built cardOfP4) = .next (.ok, t) :=
  ⟨built_inv _, rfl, exists_end (by decide +kernel)⟩

/-- One ForceErase and one status read of a card that is unlocked after it. -/
def eraseThenUnlocked : List Byte :=
  closing 0x00#8 ++ keeping 0x00#8 ++ ff 3 ++ keeping 0x00#8 ++ [0x00#8] ++ ff 1

/-- One ForceErase and one status read of a card that is still locked after it. -/
def eraseThenLocked : List Byte :=
  closing 0x00#8 ++ keeping 0x00#8 ++ ff 3 ++ keeping 0x00#8 ++ [0x01#8] ++ ff 1

theorem witness_DoubleAttemptEndsAsTheStatusSays :
    (∃ t, clientOp (.attempt .forceErase) (scripted (eraseThenLocked ++ eraseThenUnlocked)) = .next (.ok, t)) ∧
    ∃ t, clientOp (.attempt .forceErase) (scripted (eraseThenLocked ++ eraseThenLocked)) =
      .next (.fail .protocolError .notAchieved, t) := ⟨exists_end (by decide +kernel), exists_end (by decide +kernel)⟩

theorem witness_DispatcherInitializesFirst :
    ∃ t, clientOp .hostInitialize (scripted (ff 314)) = .next (.fail .notDetected (.raw 0x00#8), t) :=
  exists_end (by decide +kernel)

/-- A high-capacity card that sends no token, and one that sends the start token; the block after it is whatever the card sends. -/
theorem witness_ReadBlockStoresTheBlock :
    (∃ t, clientOp (.readBlock 0#32) { scripted (keeping 0x00#8 ++ ff 101) with host := (hostWith .highCapacity).host } =
      .next (.fail .timeout (.raw 0xFF#8), t)) ∧
    ∃ t, clientOp (.readBlock 0xFFFFFFFF#32)
      { scripted (keeping 0x00#8 ++ [0xFE#8]) with host := (hostWith .highCapacity).host } = .next (.ok, t) := by
  refine ⟨exists_end (by decide +kernel), ?_⟩
  have hx : ∀ b : Byte, decode (encode (.exchange b)) = .ok (.exchange b) := by decide +kernel
  let s : State := { scripted (keeping 0x00#8 ++ [0xFE#8]) with host := (hostWith .highCapacity).host }
  obtain ⟨⟨y, u⟩, hu, htoken⟩ := exists_next_of_map (b := true)
    (o := andThen (cmd 0x51#8 0xFFFFFFFF#32 (s.onHost fun h => { h with blk := List.replicate Config.blockLen 0#8 }))
      fun r => issue .waitToken r.2)
    (f := fun r => gotStartToken r.1) (by decide +kernel)
  obtain ⟨r, hr, ht⟩ := andThen_eq_next.1 hu
  obtain ⟨bs, v, hv, -, -⟩ := receive_run hx Config.blockLen u
  obtain ⟨cs, w, hw, -, -⟩ := receive_run hx 2 v
  obtain ⟨d, x, hxx, -⟩ := close_run (by decide) (hx _) w
  refine ⟨x.onHost fun h => { h with blk := bs }, ?_⟩
  show readBlockAt 0xFFFFFFFF#32 s = _
  simp only [readBlockAt, hr, ht, andThen_next, htoken, if_true, hv, hw, hxx, succeed]

end Sys2Proof.Tests
end

section
/-!
PROOFS. INITIALIZE as one equation and one run: the sequencer comes to the pseudocode's reply, and its work is link traffic and the card type.
-/
namespace Sys2Proof.Machine

/-! ### The sequencer runs the pseudocode, whatever state it is found in -/

theorem highCapacityInit_setSequencer (q : Sequencer) (s : State) :
    highCapacityInit (s.setSequencer q) = (highCapacityInit s).setSequencer q := by
  have hq := linkBlind_setSequencer q
  simp only [highCapacityInit, hq.dummies, repeatWithin_blind _ (hq.sendCommand _ _)]
  rfl

theorem legacyInit_setSequencer (q : Sequencer) (s : State) :
    legacyInit (s.setSequencer q) = (legacyInit s).setSequencer q := by
  have hq := linkBlind_setSequencer q
  simp only [legacyInit, hq.dummies, repeatWithin_blind _ (hq.sendCommand _ _), hq.setBlockLength]
  rfl

section
variable (n : Nat) (s : State)

@[simp] theorem sequencerStep_idle : sequencerStep n (s.setSequencer .idle) = s.setSequencer .idle := rfl

@[simp] theorem sequencerStep_powerSettle :
    sequencerStep n (s.setSequencer .powerSettle) = (powerSettle n s).setSequencer .idleHandshake :=
  congrArg (·.setSequencer .idleHandshake) ((linkBlind_setSequencer _).powerSettle n s)

@[simp] theorem sequencerStep_idleHandshake :
    sequencerStep n (s.setSequencer .idleHandshake) =
      if (idleHandshake s).1.value = 0x01#8 then (setBlockLength (idleHandshake s).2).setSequencer .probeCapability
      else (idleHandshake s).2.setSequencer .notDetected := by
  have hq := linkBlind_setSequencer .idleHandshake
  simp only [sequencerStep, State.setSequencer_sequencer, hq.idleHandshake, hq.setBlockLength]
  rfl

@[simp] theorem sequencerStep_probeCapability :
    sequencerStep n (s.setSequencer .probeCapability) =
      if (probeIfCond s).1.value = 0x01#8 then (probeIfCond s).2.setSequencer .highCapacityInit
      else if (probeOcr (probeIfCond s).2).1.value = 0x01#8 then
        (probeOcr (probeIfCond s).2).2.setSequencer .legacyInit
      else (probeOcr (probeIfCond s).2).2.setSequencer .ready := by
  have hq := linkBlind_setSequencer .probeCapability
  simp only [sequencerStep, State.setSequencer_sequencer, hq.probeIfCond, hq.probeOcr]
  rfl

@[simp] theorem sequencerStep_highCapacityInit :
    sequencerStep n (s.setSequencer .highCapacityInit) = (highCapacityInit s).setSequencer .ready :=
  congrArg (·.setSequencer .ready) (highCapacityInit_setSequencer _ s)

@[simp] theorem sequencerStep_legacyInit :
    sequencerStep n (s.setSequencer .legacyInit) = (legacyInit s).setSequencer .ready :=
  congrArg (·.setSequencer .ready) (legacyInit_setSequencer _ s)

@[simp] theorem sequencerStep_ready :
    sequencerStep n (s.setSequencer .ready) = (respondReply (readyReply s)).setSequencer .idle := rfl

@[simp] theorem sequencerStep_notDetected :
    sequencerStep n (s.setSequencer .notDetected) = (respond .notDetected 0x00#8 s).setSequencer .idle := rfl

/-- The sequencer of R211, started at PowerSettle, comes to the reply of the pseudocode of R210 and is idle again. -/
theorem runSequencer_eq :
    runSequencer n ((s.setCardType .unknown).setSequencer .powerSettle) =
      (respondReply (initializeCard n s)).setSequencer .idle := by
  simp only [runSequencer, Nat.repeat, sequencerStep_powerSettle, sequencerStep_idleHandshake, initializeCard]
  generalize idleHandshake (powerSettle n (s.setCardType .unknown)) = idle
  by_cases hidle : idle.1.value = 0x01#8
  · simp only [hidle, if_true, ne_eq, not_true_eq_false, if_false, sequencerStep_probeCapability]
    generalize probeIfCond (setBlockLength idle.2) = r₈
    by_cases h₈ : r₈.1.value = 0x01#8
    · simp only [h₈, if_true, sequencerStep_highCapacityInit, sequencerStep_ready]
    · by_cases h₅₈ : (probeOcr r₈.2).1.value = 0x01#8
      · simp only [h₈, h₅₈, if_true, if_false, sequencerStep_legacyInit, sequencerStep_ready]
      · simp only [h₈, h₅₈, if_false, sequencerStep_ready, sequencerStep_idle]
  · simp only [hidle, if_false, ne_eq, not_false_eq_true, if_true, sequencerStep_notDetected, sequencerStep_idle]
    rfl

/-- INITIALIZE answers the reply of the pseudocode of R210, from every state. -/
theorem exec_initializeCard :
    exec .initializeCard s = .next ((respondReply (initializeCard 10 s)).setSequencer .idle) :=
  congrArg Host.Outcome.next (runSequencer_eq Config.nSettle s)

/-! ### What each end of the pseudocode answers -/

theorem initializeCard_notDetected {n : Nat} {s : State}
    (h : (idleHandshake (powerSettle n (s.setCardType .unknown))).1.value ≠ 0x01#8) :
    initializeCard n s = (⟨.notDetected, 0x00#8⟩, (idleHandshake (powerSettle n (s.setCardType .unknown))).2) :=
  if_pos h

theorem initializeCard_status_ok {n : Nat} {s : State}
    (h : (idleHandshake (powerSettle n (s.setCardType .unknown))).1.value = 0x01#8) :
    (initializeCard n s).1.status = .ok := by
  simp only [initializeCard, h, ne_eq, not_true_eq_false, if_false]
  split
  · rfl
  · split <;> rfl

/-! ### Link traffic that may also write the card type (R23) -/

/-- `t` is `s` after the link traffic `es`, but for the card type. -/
def TypingRun (s t : State) (es : List LinkEvent) : Prop :=
  LinkRun s (t.setCardType s.cardType) es

theorem LinkRun.typing {s t : State} {es : List LinkEvent} (h : LinkRun s t es) : TypingRun s t es :=
  { h with cardType := rfl }

theorem TypingRun.setCardType {s t : State} {es : List LinkEvent} (h : TypingRun s t es) (c : CardType) :
    TypingRun s (t.setCardType c) es := h

theorem TypingRun.of_setCardType {s t : State} {es : List LinkEvent} {c : CardType}
    (h : TypingRun (s.setCardType c) t es) : TypingRun s t es :=
  { h with cardType := rfl }

theorem TypingRun.trans {s t u : State} {es fs : List LinkEvent} (h : TypingRun s t es) (k : TypingRun t u fs) :
    TypingRun s u (es ++ fs) :=
  LinkRun.trans h (u := u.setCardType s.cardType) { k with cardType := rfl }

theorem highCapacityInit_run : ∃ es, TypingRun s (highCapacityInit s) es := by
  obtain ⟨_, -, hecho⟩ := dummies_run 4 s
  obtain ⟨_, -, hloop, -⟩ := commandLoop_run Config.initLoopLimit (by decide) 0xE9#8 Config.hcsArg
    (fun r => r.value == 0x00#8) (dummies 4 s)
  exact ⟨_, (hecho.trans hloop).typing.setCardType _⟩

theorem legacyInit_run : ∃ es, TypingRun s (legacyInit s) es := by
  obtain ⟨_, -, hocr⟩ := dummies_run 4 s
  obtain ⟨_, -, hloop, -⟩ := commandLoop_run Config.initLoopLimit (by decide) 0x41#8 0#32
    (fun r => r.value == 0x00#8) (dummies 4 s)
  obtain ⟨_, _, hblock, -⟩ := setBlockLength_run _
  exact ⟨_, ((hocr.trans hloop).trans hblock).typing.setCardType _⟩

theorem readyReply_run : ∃ r, LinkRun s (readyReply s).2 [.xfer s.cs 0xFF#8 r] := dummy_run s

/-! ### Loops of one plain command -/

/-- A loop that stops by a part of its result, as a loop over that part. -/
theorem PollEnds.map {α β : Type} {limit : Nat} {stop : β → Bool} {f : α → β} {results : List α} {last : α}
    (h : PollEnds limit (fun a => stop (f a)) results last) : PollEnds limit stop (results.map f) (f last) where
  ends := by simp [h.ends]
  within := by simpa using h.within
  goesOn := by simpa [← List.map_dropLast] using h.goesOn
  stops := by simpa using h.stops

/-- A loop whose last result does not stop it has used up its budget, and no result stops it. -/
theorem PollEnds.exhausted {α : Type} {limit : Nat} {stop : α → Bool} {results : List α} {last : α}
    (h : PollEnds limit stop results last) (hlast : stop last = false) :
    results.length = limit ∧ ∀ b ∈ results, stop b = false := by
  refine ⟨h.stops.resolve_left (by simp [hlast]), fun b hb => ?_⟩
  rw [← List.dropLast_append_getLast? last h.ends] at hb
  rcases List.mem_append.1 hb with hb | hb
  · exact h.goesOn b hb
  · rwa [List.mem_singleton.1 hb]

/-- A loop whose rounds are one command without the ACMD flag: the rounds with their response bytes. -/
theorem plainCommandLoop_run {limit : Nat} (hlimit : limit ≠ 0) {command : Byte} (hf : acmdFlag command = false)
    (argument : Word32) (stop : Byte → Bool) :
    ∃ rounds : List (List LinkEvent × Byte),
      PollEnds limit stop (rounds.map Prod.snd)
        (repeatWithin limit (sendCommand command argument) (fun r => stop r.value) s).1.value ∧
      LinkRun s (repeatWithin limit (sendCommand command argument) (fun r => stop r.value) s).2
        (rounds.map Prod.fst).flatten ∧
      ∀ x ∈ rounds, PlainCommand (commandIndex command) argument x.1 x.2 := by
  obtain ⟨rounds, hends, hrun, hall, -⟩ :=
    repeatUntil_run (I := fun _ => True) (T := fun es r => PlainCommand (commandIndex command) argument es r.value)
      (body := sendCommand command argument) (stop := fun r => stop r.value)
      (fun t _ => (sendCommand_plain_run hf argument t).imp fun _ h => ⟨h.1, h.2, trivial⟩) (limit - 1) s trivial
  rw [Nat.sub_add_cancel (Nat.one_le_iff_ne_zero.2 hlimit)] at hends
  unfold repeatWithin
  refine ⟨rounds.map fun x => (x.1, x.2.value), ?_, ?_, List.forall_mem_map.2 hall⟩
  · simpa [Function.comp_def] using hends.map
  · simpa [Function.comp_def] using hrun

/-- The idle handshake (R213): its GO_IDLE_STATE attempts, each with the byte it was answered. -/
theorem idleHandshake_run :
    ∃ attempts : List (List LinkEvent × Byte),
      PollEnds 16 (fun r => r == 0x01#8) (attempts.map Prod.snd) (idleHandshake s).1.value ∧
      LinkRun s (idleHandshake s).2 (attempts.map Prod.fst).flatten ∧
      ∀ x ∈ attempts, PlainCommand 0#6 0#32 x.1 x.2 :=
  plainCommandLoop_run s (by decide) (command := 0x40#8) (by decide) 0#32 (fun r => r == 0x01#8)

/-- The steps of INITIALIZE before the capability probe (R212, R213): the settle exchanges with the card released, then the attempts. -/
theorem settleAndHandshake_run :
    ∃ (settle : List Byte) (attempts : List (List LinkEvent × Byte)),
      settle.length = n ∧
      PollEnds 16 (fun r => r == 0x01#8) (attempts.map Prod.snd) (idleHandshake (powerSettle n s)).1.value ∧
      LinkRun s (idleHandshake (powerSettle n s)).2
        ([.desel] ++ settle.map (LinkEvent.xfer false 0xFF#8) ++ (attempts.map Prod.fst).flatten) ∧
      ∀ x ∈ attempts, PlainCommand 0#6 0#32 x.1 x.2 := by
  obtain ⟨settle, hlen, hsettle⟩ := powerSettle_run n s
  obtain ⟨attempts, hends, hattempts, hall⟩ := idleHandshake_run (powerSettle n s)
  exact ⟨settle, attempts, hlen, hends, hsettle.trans hattempts, hall⟩

/-- Traffic made of parts that each leave the card released leaves a released card released. -/
theorem csAfter_flatten_false {ess : List (List LinkEvent)} (h : ∀ es ∈ ess, csAfter false es = false) :
    csAfter false ess.flatten = false := by
  induction ess with
  | nil => rfl
  | cons es ess ih =>
    obtain ⟨hes, hess⟩ := List.forall_mem_cons.1 h
    rw [List.flatten_cons, csAfter_append, hes, ih hess]

/-- INITIALIZE's own work is link traffic and the card type: no response, no other field. -/
theorem initializeCard_run : ∃ es, TypingRun s (initializeCard n s).2 es := by
  obtain ⟨_, _, -, -, hstart, -⟩ := settleAndHandshake_run n (s.setCardType .unknown)
  have hidle := hstart.typing.of_setCardType
  unfold initializeCard
  generalize idleHandshake (powerSettle n (s.setCardType .unknown)) = idle at *
  dsimp only
  split
  · exact ⟨_, hidle⟩
  · obtain ⟨_, _, h₁₆, -⟩ := setBlockLength_run idle.2
    obtain ⟨_, h₈, -⟩ := probeIfCond_run (setBlockLength idle.2)
    have hprobe := hidle.trans (h₁₆.trans h₈).typing
    generalize probeIfCond (setBlockLength idle.2) = r₈ at *
    split
    · obtain ⟨_, hinit⟩ := highCapacityInit_run r₈.2
      obtain ⟨_, hready⟩ := readyReply_run (highCapacityInit r₈.2)
      exact ⟨_, (hprobe.trans hinit).trans hready.typing⟩
    · obtain ⟨_, h₅₈, -⟩ := probeOcr_run r₈.2
      have hocr := hprobe.trans h₅₈.typing
      split
      · obtain ⟨_, hinit⟩ := legacyInit_run (probeOcr r₈.2).2
        obtain ⟨_, hready⟩ := readyReply_run (legacyInit (probeOcr r₈.2).2)
        exact ⟨_, (hocr.trans hinit).trans hready.typing⟩
      · obtain ⟨_, hready⟩ := readyReply_run (probeOcr r₈.2).2
        exact ⟨_, hocr.trans hready.typing⟩

end

/-! ### NOT_DETECTED -/

/-- INITIALIZE appends one response, made of the pseudocode's reply. -/
theorem exec_initializeCard_responses {s t : State} (h : exec .initializeCard s = .next t) :
    t.responses =
      s.responses ++ [responseWord (initializeCard 10 s).1.status (initializeCard 10 s).1.value] := by
  obtain ⟨_, hrun⟩ := initializeCard_run 10 s
  have hkept : (initializeCard 10 s).2.responses = s.responses := hrun.responses
  rw [exec_initializeCard, Host.Outcome.next.injEq] at h
  simp only [← h, respondReply, respond, State.setSequencer_responses, State.answer_responses, hkept]

/-- The status NOT_DETECTED comes only from a handshake that ended without the byte 0x01 (R213). -/
theorem idleHandshake_failed_of_answer {s t : State} (h : exec .initializeCard s = .next t)
    (hresp : t.responses = s.responses ++ [0x1000#16]) :
    (idleHandshake (powerSettle 10 (s.setCardType .unknown))).1.value ≠ 0x01#8 := by
  intro hfound
  rw [exec_initializeCard_responses h, initializeCard_status_ok hfound, List.append_cancel_left_eq,
    List.singleton_inj] at hresp
  have hstatus := congrArg statusField hresp
  rw [statusField_responseWord] at hstatus
  exact absurd hstatus (by decide)

/-- Settles O45: the answer 0x1000 means that no attempt was answered 0x01, so the handshake used up its sixteen attempts and INITIALIZE
ended there, its last command having released the card. -/
theorem notDetectedAfterSixteenAttempts : Obligations.NotDetectedAfterSixteenAttempts := by
  unfold Obligations.NotDetectedAfterSixteenAttempts
  intro s t hexec hresp
  have hfailed := idleHandshake_failed_of_answer hexec hresp
  rw [exec_initializeCard, initializeCard_notDetected hfailed, Host.Outcome.next.injEq] at hexec
  subst hexec
  obtain ⟨settle, attempts, hlen, hends, hrun, hall⟩ := settleAndHandshake_run 10 (s.setCardType .unknown)
  obtain ⟨hsixteen, hnone⟩ := hends.exhausted (by simpa using hfailed)
  have hreleased : csAfter false (attempts.map Prod.fst).flatten = false :=
    csAfter_flatten_false (List.forall_mem_map.2 fun x hx => by simpa using ((hall x hx).measure false).2)
  refine ⟨settle, attempts, hlen, by simpa using hsixteen, fun x hx => ⟨hall x hx, ?_⟩, ?_, hrun.cardType, ?_⟩
  · simpa using hnone x.2 (List.mem_map_of_mem hx)
  · simpa [respondReply, respond] using hrun.history
  · simpa [respondReply, respond, csAfter, hreleased] using hrun.cs

end Sys2Proof.Machine
end

section
/-!
PROOFS. What each instruction does before its one response, said once: link traffic, the table's build, or INITIALIZE's run.
-/
namespace Sys2Proof.Machine

/-- The six operations that never change `cs` (R26). -/
def keepsChipSelect : Instr → Bool
  | .exchange _ | .crcBuild | .crcExtend _ _ | .waitToken | .decodeErrorToken _ | .status => true
  | _ => false

/-- `Effect s i u`: from `s`, the instruction `i` comes to `u` and then answers. Every instruction but CRC_BUILD and INITIALIZE changes
only what link traffic changes. -/
inductive Effect (s : State) : Instr → State → Prop
  | link {i : Instr} {u : State} {es : List LinkEvent} (hrun : LinkRun s u es)
      (hcs : keepsChipSelect i = true → u.cs = s.cs) : Effect s i u
  | build {m : Memory} (hwf : s.crcTable.wf = true → m.wf = true)
      (hread : ∀ i : Byte, m.read i.toNat = some (crcTableEntry i)) :
      Effect s .crcBuild ((s.setCrcTable m).setCrcTableValid true)
  | init {u : State} {es : List LinkEvent} (hrun : TypingRun s u es) :
      Effect s .initializeCard (u.setSequencer .idle)

section
variable {i : Instr} {s t u : State}

/-- An instruction whose meaning is link traffic and a response. -/
theorem LinkRun.effect {es : List LinkEvent} {st : Status} {v : Byte} (hrun : LinkRun s u es)
    (hcs : keepsChipSelect i = true → u.cs = s.cs)
    (h : (.next (respond st v u) : Host.Outcome State Fault Refusal) = .next t) :
    ∃ u st v, Effect s i u ∧ t = u.answer (responseWord st v) :=
  ⟨u, st, v, .link hrun hcs, (Host.Outcome.next.inj h).symm⟩

/-- An instruction that only answers. -/
theorem effect_of_respond {st : Status} {v : Byte}
    (h : (.next (respond st v s) : Host.Outcome State Fault Refusal) = .next t) :
    ∃ u st v, Effect s i u ∧ t = u.answer (responseWord st v) :=
  (LinkRun.refl s).effect (fun _ => rfl) h

/-- An instruction that is one SEND_COMMAND. -/
theorem effect_of_sendCommand (k : Byte) (a : Word32) (hi : keepsChipSelect i = false)
    (h : execSendCommand k a s = .next t) : ∃ u st v, Effect s i u ∧ t = u.answer (responseWord st v) := by
  obtain ⟨es, hrun, -⟩ := sendCommand_run k a s
  exact hrun.effect (by simp [hi]) h

/-- Every instruction has its effect, then appends one response (R74). -/
theorem exec_effect (h : exec i s = .next t) : ∃ u st v, Effect s i u ∧ t = u.answer (responseWord st v) := by
  cases i with
  | exchange b => exact (exchange_run b s).effect (fun _ => rfl) h
  | select => exact (select_run s).effect (absurd · (by decide)) h
  | deselect => exact (deselect_run s).effect (absurd · (by decide)) h
  | crcBuild =>
    obtain ⟨m, hm, hwf, hread⟩ := buildTable_spec s
    simp only [exec, execCrcBuild, hm] at h
    exact ⟨_, .ok, 0x00#8, .build hwf hread, (Host.Outcome.next.inj h).symm⟩
  | crcExtend crc b =>
    simp only [exec, execCrcExtend] at h
    split at h
    · split at h
      · exact effect_of_respond h
      · cases h
    · exact effect_of_respond h
  | waitToken =>
    obtain ⟨polls, -, hrun⟩ := pollLink_run (fun b => b != 0xFF#8) 99 s
    exact hrun.effect (fun _ => by rw [hrun.cs, csAfter_map_xfer]) h
  | decodeErrorToken k =>
    simp only [exec, execDecodeErrorToken] at h
    split at h <;> exact effect_of_respond h
  | initializeCard =>
    obtain ⟨es, hrun⟩ := initializeCard_run 10 s
    rw [exec_initializeCard] at h
    exact ⟨_, _, _, .init hrun, (Host.Outcome.next.inj h).symm⟩
  | status => exact effect_of_respond h
  | sendCommand k a => exact effect_of_sendCommand k a rfl h
  | setBlocklen a | readSingleBlock a => exact effect_of_sendCommand _ a rfl h
  | sendIfCond | sdSendOpCond => exact effect_of_sendCommand _ _ rfl h
  | goIdleState | sdSendOpCondLegacy | sendCsd | sendCid | sendStatus | programCsd | lockUnlock | appCmd | readOcr =>
    exact effect_of_sendCommand _ 0#32 rfl h

/-! ### What an effect leaves alone -/

theorem Effect.responses (h : Effect s i u) : u.responses = s.responses := by
  cases h with
  | link hrun _ => exact hrun.responses
  | build _ _ => rfl
  | init hrun => exact hrun.responses

theorem Effect.cardType (h : Effect s i u) (hi : i ≠ .initializeCard) : u.cardType = s.cardType := by
  cases h with
  | link hrun _ => exact hrun.cardType
  | build _ _ => rfl
  | init _ => exact absurd rfl hi

theorem Effect.cs (h : Effect s i u) (hi : keepsChipSelect i = true) : u.cs = s.cs := by
  cases h with
  | link _ hcs => exact hcs hi
  | build _ _ => rfl
  | init _ => exact absurd hi (by decide)

theorem Effect.crcTable (h : Effect s i u) (hi : i ≠ .crcBuild) : u.crcTable = s.crcTable := by
  cases h with
  | link hrun _ => exact hrun.crcTable
  | build _ _ => exact absurd rfl hi
  | init hrun => exact hrun.crcTable

theorem Effect.crcTableValid (h : Effect s i u) (hi : i ≠ .crcBuild) : u.crcTableValid = s.crcTableValid := by
  cases h with
  | link hrun _ => exact hrun.crcTableValid
  | build _ _ => exact absurd rfl hi
  | init hrun => exact hrun.crcTableValid

theorem Effect.crcTableValid_of_true (h : Effect s i u) (hs : s.crcTableValid = true) : u.crcTableValid = true := by
  cases h with
  | link hrun _ => exact hrun.crcTableValid.trans hs
  | build _ _ => rfl
  | init hrun => exact hrun.crcTableValid.trans hs

end

/-! ### The writers of the card type, the chip select and the table -/

/-- Settles O14: every effect but INITIALIZE's leaves the card type. -/
theorem onlyInitializeWritesTheCardType : Obligations.OnlyInitializeWritesTheCardType := by
  unfold Obligations.OnlyInitializeWritesTheCardType
  intro i s t hi h
  obtain ⟨u, st, v, heff, rfl⟩ := exec_effect h
  exact heff.cardType hi

/-- Settles O15: the six operations are those of `keepsChipSelect`, and every effect but CRC_BUILD's leaves the table. -/
theorem chipSelectAndTableHaveTheirWriters : Obligations.ChipSelectAndTableHaveTheirWriters := by
  unfold Obligations.ChipSelectAndTableHaveTheirWriters
  intro i s t h
  obtain ⟨u, st, v, heff, rfl⟩ := exec_effect h
  refine ⟨fun hi => heff.cs ?_, heff.crcTable⟩
  rcases hi with hi | ⟨b, rfl⟩ | ⟨c, b, rfl⟩ | ⟨k, rfl⟩
  · simp only [List.mem_cons, List.not_mem_nil, or_false] at hi
    rcases hi with rfl | rfl | rfl <;> rfl
  · rfl
  · rfl
  · rfl

/-- Settles O16: CRC_BUILD sets the bit, and every other effect leaves it. -/
theorem tableValidBitOnlyRises : Obligations.TableValidBitOnlyRises := by
  unfold Obligations.TableValidBitOnlyRises
  intro i s t h
  obtain ⟨u, st, v, heff, rfl⟩ := exec_effect h
  refine ⟨heff.crcTableValid_of_true, fun hs ht => by_contra fun hi => ?_⟩
  exact absurd (hs.symm.trans ((heff.crcTableValid hi).symm.trans ht)) (by decide)

/-- Settles O22: the effect of a link instruction is link traffic, which keeps all of these; and R26 for EXCHANGE and WAIT_TOKEN. -/
theorem linkInstructionsFrame : Obligations.LinkInstructionsFrame := by
  unfold Obligations.LinkInstructionsFrame
  intro i s t hi h
  obtain ⟨u, st, v, heff, rfl⟩ := exec_effect h
  cases heff with
  | link hrun hcs =>
    refine ⟨hrun.cardType, fun a => ?_, hrun.crcTableValid, hrun.sequencer, hrun.work, hrun.host, fun hi' => hcs ?_⟩
    · exact congrArg (·.read a.toNat) hrun.crcTable
    · rcases hi' with rfl | ⟨b, rfl⟩ <;> rfl
  | build _ _ => exact absurd hi (by decide)
  | init _ => exact absurd hi (by decide)

end Sys2Proof.Machine
end

section
/-!
PROOFS. What is outside the block (R31) does not influence it; building a built table; STATUS.
-/
namespace Sys2Proof.Machine

/-! ### Replacing what is outside the block -/

/-- The state with the host, its stream and the earlier responses replaced. -/
def State.withOutside (h : ClientState) (w : List WorkItem) (ys : List ResponseWord) (s : State) : State :=
  { s with host := h, work := w, responses := ys }

section
variable (h : ClientState) (w : List WorkItem) (ys : List ResponseWord) (s : State)

theorem linkBlind_withOutside : LinkBlind (State.withOutside h w ys) := linkBlind_outside h w ys

theorem buildEntries_withOutside (is : List Nat) :
    buildEntries is (s.withOutside h w ys) = (buildEntries is s).withOutside h w ys := by
  induction is generalizing s with
  | nil => rfl
  | cons i is ih => exact ih (s.tableWrite (BitVec.ofNat 8 i) (crcTableEntry (BitVec.ofNat 8 i)))

theorem highCapacityInit_withOutside :
    highCapacityInit (s.withOutside h w ys) = (highCapacityInit s).withOutside h w ys := by
  have hφ := linkBlind_withOutside h w ys
  simp only [highCapacityInit, hφ.dummies, repeatWithin_blind _ (hφ.sendCommand _ _)]
  rfl

theorem legacyInit_withOutside : legacyInit (s.withOutside h w ys) = (legacyInit s).withOutside h w ys := by
  have hφ := linkBlind_withOutside h w ys
  simp only [legacyInit, hφ.dummies, repeatWithin_blind _ (hφ.sendCommand _ _), hφ.setBlockLength]
  rfl

theorem readyReply_withOutside :
    readyReply (s.withOutside h w ys) = ((readyReply s).1, (readyReply s).2.withOutside h w ys) := rfl

theorem initializeCard_withOutside (n : Nat) :
    initializeCard n (s.withOutside h w ys) = ((initializeCard n s).1, (initializeCard n s).2.withOutside h w ys) := by
  have hφ := linkBlind_withOutside h w ys
  have hstart : (s.withOutside h w ys).setCardType .unknown = (s.setCardType .unknown).withOutside h w ys := rfl
  simp only [initializeCard, hstart, hφ.powerSettle, hφ.idleHandshake, hφ.setBlockLength, hφ.probeIfCond, hφ.probeOcr,
    highCapacityInit_withOutside, legacyInit_withOutside, readyReply_withOutside]
  split
  · rfl
  · split
    · rfl
    · split <;> rfl

end

section
variable {i : Instr} {s t : State} (h : ClientState) (w : List WorkItem) (ys : List ResponseWord)

/-- `i` goes from `s` to `t` as it does from `s` with the outside replaced, but for what is outside. -/
def IgnoresOutside (i : Instr) (s t : State) : Prop :=
  ∃ (u : State) (y : ResponseWord), t = u.answer y ∧ exec i (s.withOutside h w ys) = .next ((u.withOutside h w ys).answer y)

/-- An instruction that answers the reply of a body which ignores what is outside. -/
theorem ignoresOutside_of_body {body : State → Reply × State} (hi : ∀ s, exec i s = .next (respondReply (body s)))
    (hbody : body (s.withOutside h w ys) = ((body s).1, (body s).2.withOutside h w ys)) (hexec : exec i s = .next t) :
    IgnoresOutside h w ys i s t := by
  rw [hi] at hexec
  exact ⟨(body s).2, _, (Host.Outcome.next.inj hexec).symm, by rw [hi, hbody]; rfl⟩

theorem exec_ignoresOutside (hexec : exec i s = .next t) : IgnoresOutside h w ys i s t := by
  have hφ := linkBlind_withOutside h w ys
  cases i with
  | exchange | select | deselect | status => exact ⟨_, _, (Host.Outcome.next.inj hexec).symm, rfl⟩
  | crcBuild =>
    refine ⟨_, _, (Host.Outcome.next.inj hexec).symm, ?_⟩
    simp only [exec, execCrcBuild, buildTable, buildEntries_withOutside]
    rfl
  | crcExtend crc b =>
    have hsame : (s.withOutside h w ys).crcTableValid = s.crcTableValid ∧
        ∀ a, (s.withOutside h w ys).tableRead a = s.tableRead a := ⟨rfl, fun _ => rfl⟩
    simp only [IgnoresOutside, exec, execCrcExtend, hsame] at hexec ⊢
    split at hexec
    · next hvalid =>
      split at hexec
      · exact ⟨s, _, (Host.Outcome.next.inj hexec).symm, by rw [if_pos hvalid]; rfl⟩
      · cases hexec
    · next hvalid => exact ⟨s, _, (Host.Outcome.next.inj hexec).symm, by rw [if_neg hvalid]; rfl⟩
  | decodeErrorToken k =>
    simp only [IgnoresOutside, exec, execDecodeErrorToken] at hexec ⊢
    split at hexec
    · next hk => exact ⟨s, _, (Host.Outcome.next.inj hexec).symm, by rw [if_pos hk]; rfl⟩
    · next hk => exact ⟨s, _, (Host.Outcome.next.inj hexec).symm, by rw [if_neg hk]; rfl⟩
  | waitToken => exact ignoresOutside_of_body h w ys (fun _ => rfl) (hφ.waitForToken s) hexec
  | initializeCard =>
    rw [exec_initializeCard] at hexec
    refine ⟨(initializeCard 10 s).2.setSequencer .idle, _, (Host.Outcome.next.inj hexec).symm, ?_⟩
    rw [exec_initializeCard, initializeCard_withOutside]
    rfl
  | sendCommand k a => exact ignoresOutside_of_body h w ys (fun _ => rfl) (hφ.sendCommand k a s) hexec
  | setBlocklen a | readSingleBlock a =>
    exact ignoresOutside_of_body h w ys (fun _ => rfl) (hφ.sendCommand _ a s) hexec
  | goIdleState | sdSendOpCondLegacy | sendIfCond | sendCsd | sendCid | sendStatus | programCsd | lockUnlock | appCmd
  | readOcr | sdSendOpCond => exact ignoresOutside_of_body h w ys (fun _ => rfl) (hφ.sendCommand _ _ s) hexec

end

/-- Settles O19: the instruction takes the replaced state to the replaced result, with the response it appends either way. -/
theorem hostStateDoesNotInfluenceTheBlock : Obligations.HostStateDoesNotInfluenceTheBlock := by
  unfold Obligations.HostStateDoesNotInfluenceTheBlock
  intro i s t h w ys hexec
  obtain ⟨u, st, v, heff, ht⟩ := exec_effect hexec
  obtain ⟨u', y, rfl, hreplaced⟩ := exec_ignoresOutside h w ys hexec
  refine ⟨y, ?_, hreplaced⟩
  have hresponses : u'.responses ++ [y] = s.responses ++ [responseWord st v] := by
    rw [← heff.responses]
    exact congrArg State.responses ht
  obtain ⟨hpast, -⟩ := List.append_inj' hresponses rfl
  exact congrArg (· ++ [y]) hpast

/-! ### Building a built table -/

/-- Two canonical memories that read alike at every index of R55 are equal. -/
theorem Memory.ext_read_index {m n : Memory} (hm : m.wf = true) (hn : n.wf = true)
    (h : ∀ i : Byte, m.read i.toNat = n.read i.toNat) : m = n := by
  refine Memory.ext_read hm hn fun a => ?_
  by_cases ha : a < 256
  · simpa [Nat.mod_eq_of_lt ha] using h (BitVec.ofNat 8 a)
  · rw [Memory.read_of_le hm (by omega), Memory.read_of_le hn (by omega)]

/-- A canonical table that holds every entry is rewritten with the same data. -/
theorem buildTable_eq_self {s : State} (hwf : s.crcTable.wf = true)
    (hread : ∀ i : Byte, s.tableRead i = some (crcTableEntry i)) : buildTable s = s := by
  obtain ⟨m, hm, hmwf, hmread⟩ := buildTable_spec s
  have hsame : m = s.crcTable := Memory.ext_read_index (hmwf hwf) hwf fun i => (hmread i).trans (hread i).symm
  rw [hm, hsame]
  rfl

/-- Settles O30: after one CRC_BUILD the table is canonical and holds every entry, so another rewrites the same data. -/
theorem secondCrcBuildChangesNothing : Obligations.SecondCrcBuildChangesNothing := by
  unfold Obligations.SecondCrcBuildChangesNothing
  intro s t hwf hexec
  obtain ⟨m, hm, hmwf, hread⟩ := buildTable_spec s
  obtain rfl := Host.Outcome.next.inj hexec
  rw [hm]
  have hself := buildTable_eq_self (s := respond .ok 0x00#8 ((s.setCrcTable m).setCrcTableValid true)) (hmwf hwf) hread
  simp only [exec, execCrcBuild, hself]
  rfl

/-! ### STATUS -/

/-- A response with status OK, as its two bytes (R75). -/
theorem responseWord_ok (v : Byte) : responseWord .ok v = 0x00#8 ++ v := rfl

/-- The fields of the status byte (R29). -/
theorem statusByte_fields (cs valid : Bool) (t : CardType) :
    (statusByte cs valid t).toNat % 4 =
        (match t with | .unknown => 0 | .standardCapacity => 1 | .highCapacity => 2) ∧
      (statusByte cs valid t).getLsbD 2 = valid ∧ (statusByte cs valid t).getLsbD 3 = cs ∧
      (statusByte cs valid t).toNat / 16 = 0 := by
  revert cs valid
  cases t <;> decide

/-- Settles O27: STATUS answers the status byte, whose fields are those of R29. -/
theorem statusReportsTheState : Obligations.StatusReportsTheState := by
  unfold Obligations.StatusReportsTheState
  intro s
  refine ⟨statusByte s.cs s.crcTableValid s.cardType, ?_, statusByte_fields _ _ _⟩
  rw [← responseWord_ok]
  rfl

end Sys2Proof.Machine
end

section
/-!
PROOFS. One step takes one item off the stream; and what every request and every sized update of the host keeps, every client
operation and every user action keeps.
-/
namespace Sys2Proof.Machine

/-! ### One step -/

theorem step_cons {s : State} {item : WorkItem} {rest : List WorkItem} (hidle : s.sequencer = .idle)
    (hwork : s.work = item :: rest) : step s = accept item (s.setWork rest) := by
  simp only [step, hidle, hwork]

theorem step_nil {s : State} (hidle : s.sequencer = .idle) (hwork : s.work = []) : step s = .next s := by
  simp only [step, hidle, hwork]

theorem request_legal {w : CodedWord} {i : Instr} (hw : decode w = .ok i) (s : State) : request w s = exec i s := by
  simp only [request, hw]

theorem request_illegal {w : CodedWord} {e : DecodeError} (hw : decode w = .error e) (s : State) :
    request w s = .next (respond .illegalRequest 0x00#8 s) := by
  simp only [request, hw]

/-- Settles O7: the step accepts the word, and its request is legal. -/
theorem stepRunsTheDecodedInstruction : Obligations.StepRunsTheDecodedInstruction := by
  unfold Obligations.StepRunsTheDecodedInstruction
  intro s w rest i hidle hwork hw
  rw [step_cons hidle hwork]
  exact request_legal hw _

/-- Settles O21: the step accepts the reset, which writes the block's fields and no other. -/
theorem blockResetLeavesTheCardAlone : Obligations.BlockResetLeavesTheCardAlone := by
  unfold Obligations.BlockResetLeavesTheCardAlone
  intro s rest hidle hwork
  refine ⟨(s.setWork rest).blockReset, step_cons hidle hwork, ?_⟩
  exact ⟨rfl, rfl, rfl, fun _ => rfl, rfl, rfl, rfl, rfl, rfl, rfl, rfl⟩

/-! ### Partial correctness of a sequence -/

/-- If the outcome is a next value, the value has the property. -/
def Ensures {α : Type} (o : Host.Outcome α Fault Refusal) (P : α → Prop) : Prop := ∀ a, o = .next a → P a

/-- If the outcome is a next result, the state with it has the property. -/
abbrev Ends {α : Type} (P : State → Prop) (o : Host.Outcome (α × State) Fault Refusal) : Prop := Ensures o fun r => P r.2

section
variable {α β : Type} {P : α → Prop} {Q : β → Prop}

theorem Ensures.next {a : α} (h : P a) : Ensures (.next a) P := fun _ ha => Host.Outcome.next.inj ha ▸ h

theorem Ensures.fault (r : Fault) : Ensures (.fault r) P := fun _ h => nomatch h

theorem Ensures.refused (r : Refusal) : Ensures (.refused r) P := fun _ h => nomatch h

theorem Ensures.andThen {o : Host.Outcome α Fault Refusal} {f : α → Host.Outcome β Fault Refusal} (ho : Ensures o P)
    (hf : ∀ a, P a → Ensures (f a) Q) : Ensures (andThen o f) Q := fun b hb => by
  obtain ⟨a, ha, hfa⟩ := andThen_eq_next.1 hb
  exact hf a (ho a ha) b hfa

theorem Ends.next {P : State → Prop} {s : State} (a : α) (h : P s) : Ends P (.next (a, s)) := Ensures.next h

end

/-! ### The sizes of the host's images and buffers (R240) -/

/-- The number of bytes of an image. -/
def Image.size : Image → Nat
  | .ocr => 4
  | .csd => 16
  | .cid => 16
  | .stat => 2

theorem TokenRegister.image_size (which : TokenRegister) : which.image.size = 16 := by cases which <;> rfl

section
variable {h : ClientState}

theorem ClientState.reset_sized : ClientState.reset.sized :=
  ⟨rfl, rfl, rfl, rfl, rfl, Nat.zero_le _, List.length_replicate⟩

theorem ClientState.sized.storeImage (hh : h.sized) {which : Image} {bytes : List Byte} (hb : bytes.length = which.size) :
    (h.storeImage bytes which).sized := by
  obtain ⟨hocr, hcsd, hcid, hstat, hpw, hlen, hblk⟩ := hh
  cases which with
  | ocr => exact ⟨hb, hcsd, hcid, hstat, hpw, hlen, hblk⟩
  | csd => exact ⟨hocr, hb, hcid, hstat, hpw, hlen, hblk⟩
  | cid => exact ⟨hocr, hcsd, hb, hstat, hpw, hlen, hblk⟩
  | stat => exact ⟨hocr, hcsd, hcid, hb, hpw, hlen, hblk⟩

theorem ClientState.sized.zeroImage (hh : h.sized) (which : Image) : (h.zeroImage which).sized := by
  have hzero := hh.storeImage (which := which) (List.length_replicate (n := which.size) (a := 0#8))
  cases which <;> exact hzero

theorem ClientState.sized.zeroAll (hh : h.sized) : h.zeroAll.sized :=
  (((hh.zeroImage .ocr).zeroImage .csd).zeroImage .cid).zeroImage .stat

theorem ClientState.sized.invalidate (hh : h.sized) : h.invalidate.sized := hh

theorem ClientState.sized.setCardType (hh : h.sized) (c : CardType) : ClientState.sized { h with cardType := c } := hh

theorem ClientState.sized.addOutcome (hh : h.sized) (r : ClientResult) :
    ClientState.sized { h with outcomes := h.outcomes ++ [r] } := hh

theorem ClientState.sized.addReport (hh : h.sized) (report : Report) :
    ClientState.sized { h with reports := h.reports ++ [report] } := hh

theorem ClientState.sized.setBlk (hh : h.sized) {bytes : List Byte} (hb : bytes.length = Config.blockLen) :
    ClientState.sized { h with blk := bytes } := by
  obtain ⟨hocr, hcsd, hcid, hstat, hpw, hlen, -⟩ := hh
  exact ⟨hocr, hcsd, hcid, hstat, hpw, hlen, hb⟩

theorem ClientState.sized.lockCsd (hh : h.sized) (locked : Bool) :
    ClientState.sized { h with csd := lockedCsd locked h.csd } := by
  obtain ⟨hocr, hcsd, hrest⟩ := hh
  exact ⟨hocr, (List.length_modify ..).trans hcsd, hrest⟩

theorem ClientState.sized.loadPassword (hh : h.sized) (bytes : Vector Byte Config.passwordMax)
    (length : Fin (Config.passwordMax + 1)) : (h.loadPassword bytes length).sized := by
  obtain ⟨hocr, hcsd, hcid, hstat, -, -, hblk⟩ := hh
  exact ⟨hocr, hcsd, hcid, hstat, bytes.length_toList, Nat.le_of_lt_succ length.isLt, hblk⟩

end

/-! ### Client operations and user actions -/

/-- A property of the state that every request keeps, and every update of the host that keeps its sizes. -/
structure Kept (P : State → Prop) : Prop where
  request : ∀ (w : CodedWord) {s : State}, P s → Ensures (request w s) P
  setHost : ∀ {s : State} {h : ClientState}, (s.host.sized → h.sized) → P s → P (s.setHost h)

section
variable {P : State → Prop} (hP : Kept P) {s : State}
include hP

theorem Kept.onHost {f : ClientState → ClientState} (hf : s.host.sized → (f s.host).sized) (hs : P s) : P (s.onHost f) :=
  hP.setHost hf hs

theorem Kept.issue (i : Instr) (hs : P s) : Ends P (issue i s) :=
  (hP.request (encode i) hs).andThen fun _ ht => .next ht

theorem Kept.issue_ (i : Instr) (hs : P s) : Ensures (issue_ i s) P :=
  (hP.issue i hs).andThen fun _ ht => .next ht

theorem Kept.cmd (k : Byte) (a : Word32) (hs : P s) : Ends P (cmd k a s) := hP.issue (.sendCommand k a) hs

theorem Kept.exchangeEach (bs : List Byte) (hs : P s) :
    Ensures (exchangeEach bs s) fun r => r.1.length = bs.length ∧ P r.2 := by
  induction bs generalizing s with
  | nil => exact .next ⟨rfl, hs⟩
  | cons b bs ih =>
    exact (hP.issue _ hs).andThen fun r hr => (ih hr).andThen fun rest hrest =>
      .next ⟨congrArg (· + 1) hrest.1, hrest.2⟩

theorem Kept.receive (n : Nat) (hs : P s) : Ensures (receive n s) fun r => r.1.length = n ∧ P r.2 := by
  have h := hP.exchangeEach (List.replicate n Config.fill) hs
  rwa [List.length_replicate] at h

theorem Kept.transmit (bs : List Byte) (hs : P s) : Ensures (transmit bs s) P :=
  (hP.exchangeEach bs hs).andThen fun _ hr => .next hr.2

theorem Kept.close (hs : P s) : Ensures (close s) P :=
  (hP.issue_ _ hs).andThen fun _ ht => hP.issue_ _ ht

theorem Kept.failWith (kind : ErrorKind) (detail : FailDetail) (hs : P s) : Ends P (failWith kind detail s) :=
  .next _ (hP.onHost (·.invalidate) hs)

theorem Kept.closeAndFail (y : ResponseWord) (hs : P s) : Ends P (closeAndFail y s) :=
  (hP.close hs).andThen fun _ ht => hP.failWith _ _ ht

theorem Kept.tokenFail (y : ResponseWord) (hs : P s) : Ends P (tokenFail y s) := by
  unfold Machine.tokenFail
  split
  · exact hP.failWith _ _ hs
  · refine (hP.issue _ hs).andThen fun d hd => ?_
    split <;> exact hP.failWith _ _ hd

/-- The end of a read: the card is released and the host stores what was received. -/
theorem Kept.closeAndStore {f : ClientState → ClientState} (hf : ∀ h : ClientState, h.sized → (f h).sized) (hs : P s) :
    Ends P (andThen (Machine.close s) fun s' => succeed (s'.onHost f)) :=
  (hP.close hs).andThen fun _ ht => .next (hP.onHost (hf _) ht)

theorem Kept.hostInitialize (hs : P s) : Ends P (hostInitialize s) := by
  refine (hP.issue .initializeCard (hP.onHost (·.zeroAll) hs)).andThen fun r hr => ?_
  split
  · exact Ends.next _ (hP.onHost (·.setCardType _) hr)
  · exact hP.failWith _ _ (hP.onHost (·.setCardType _) hr)

theorem Kept.readOcr (hs : P s) : Ends P (readOcr s) := by
  refine (hP.cmd _ _ (hP.onHost (·.zeroImage .ocr) hs)).andThen fun r hr => ?_
  split
  · exact hP.closeAndFail _ hr
  · exact (hP.receive 4 hr).andThen fun d hd => hP.closeAndStore (fun _ hh => hh.storeImage hd.1) hd.2

theorem Kept.readRegister (which : TokenRegister) (hs : P s) : Ends P (readRegister which s) := by
  refine (hP.cmd _ _ (hP.onHost (·.zeroImage _) hs)).andThen fun r hr => ?_
  refine (hP.issue _ hr).andThen fun t ht => ?_
  split
  · refine (hP.receive 16 ht).andThen fun d hd => (hP.receive 2 hd.2).andThen fun crc hcrc => ?_
    exact hP.closeAndStore (fun _ hh => hh.storeImage (hd.1.trans which.image_size.symm)) hcrc.2
  · exact (hP.close ht).andThen fun _ hu => hP.tokenFail _ hu

theorem Kept.readCardStatus (hs : P s) : Ends P (readCardStatus s) := by
  refine (hP.cmd _ _ (hP.onHost (·.zeroImage .stat) hs)).andThen fun r hr => ?_
  split
  · exact (hP.receive 1 hr).andThen fun d hd =>
      hP.closeAndStore (fun _ hh => hh.storeImage (congrArg (· + 1) hd.1)) hd.2
  · exact (hP.close hr).andThen fun _ hu => hP.failWith _ _ hu

theorem Kept.readBlockAt (address : Word32) (hs : P s) : Ends P (readBlockAt address s) := by
  refine (hP.cmd _ _ (hP.onHost (·.setBlk List.length_replicate) hs)).andThen fun r hr => ?_
  refine (hP.issue _ hr).andThen fun t ht => ?_
  split
  · refine (hP.receive Config.blockLen ht).andThen fun d hd => (hP.receive 2 hd.2).andThen fun crc hcrc => ?_
    exact hP.closeAndStore (fun _ hh => hh.setBlk hd.1) hcrc.2
  · exact (hP.close ht).andThen fun _ hu => hP.tokenFail _ hu

theorem Kept.readBlock (n : Word32) (hs : P s) : Ends P (readBlock n s) := by
  unfold Machine.readBlock
  split
  · exact hP.readBlockAt _ hs
  · exact .refused _

omit hP in
theorem useImage_ends (which : Image) (hs : P s) : Ends P (useImage which s) := by
  unfold useImage
  split
  · exact .next _ hs
  · exact .fault _

omit hP in
theorem queryLocked_ends (hs : P s) : Ends P (queryLocked s) := by
  unfold queryLocked
  split
  · exact .next _ hs
  · exact .fault _

theorem Kept.pollBusy (extra : Nat) (hs : P s) : Ends P (pollBusy extra s) := by
  induction extra generalizing s with
  | zero => exact (hP.issue _ hs).andThen fun _ hr => .next hr
  | succ n ih =>
    refine (hP.issue _ hs).andThen fun r hr => ?_
    split
    · exact ih hr
    · exact .next hr

theorem Kept.busyPollAndClose {after : ClientState → ClientState} (hafter : ∀ h : ClientState, h.sized → (after h).sized)
    (hs : P s) : Ends P (busyPollAndClose after s) := by
  refine (hP.pollBusy _ hs).andThen fun r hr => (hP.close hr).andThen fun t ht => ?_
  split
  · exact hP.failWith _ _ (hP.onHost (hafter _) ht)
  · exact .next (hP.onHost (hafter _) ht)

theorem Kept.sendWithCrc (bs : List Byte) (c : Crc7) (hs : P s) : Ends P (sendWithCrc bs c s) := by
  induction bs generalizing c s with
  | nil => exact .next _ hs
  | cons b bs ih => exact (hP.issue_ _ hs).andThen fun _ ht => (hP.issue _ ht).andThen fun _ hr => ih _ hr

theorem Kept.writeCsd (hs : P s) : Ends P (writeCsd s) :=
  (hP.transmit _ hs).andThen fun _ ht => (hP.sendWithCrc _ _ ht).andThen fun _ hr =>
    (hP.transmit _ hr).andThen fun _ hu => hP.busyPollAndClose (fun _ hh => hh) hu

theorem Kept.setTemporaryLock (locked : Bool) (hs : P s) : Ends P (setTemporaryLock locked s) := by
  refine (hP.readRegister .csd hs).andThen fun read hread => ?_
  split
  · refine (hP.cmd _ _ (hP.onHost (·.lockCsd locked) hread)).andThen fun r hr => ?_
    split
    · exact hP.writeCsd hr
    · exact hP.closeAndFail _ hr
  · exact .next hread

theorem Kept.modifyPassword (mask : Byte) (hs : P s) : Ends P (modifyPassword mask s) := by
  unfold Machine.modifyPassword modifyPasswordWith
  refine (hP.cmd _ _ (hP.onHost (·.loadPassword _ _) hs)).andThen fun r hr => ?_
  split
  · exact (hP.transmit _ hr).andThen fun _ ht => hP.busyPollAndClose (fun _ hh => hh) ht
  · exact hP.closeAndFail _ hr

theorem Kept.forceErase (hs : P s) : Ends P (forceErase s) := by
  refine (hP.cmd _ _ hs).andThen fun r₁ hr₁ => (hP.cmd _ _ hr₁).andThen fun r hr => ?_
  split
  · exact (hP.transmit _ hr).andThen fun _ ht => (hP.close ht).andThen fun _ hu => .next hu
  · exact hP.closeAndFail _ hr

theorem Kept.lockAction (action : LockAction) (hs : P s) : Ends P (action.run s) := by
  cases action with
  | lock | unlock => exact hP.modifyPassword _ hs
  | forceErase => exact hP.forceErase hs

theorem Kept.attemptOnce (action : LockAction) (want : Bool) (hs : P s) : Ends P (attemptOnce action.run want s) :=
  (hP.lockAction action hs).andThen fun _ hr => (hP.readCardStatus hr).andThen fun _ hst => .next hst

theorem Kept.attemptTwice (action : LockAction) (want : Bool) (hs : P s) : Ends P (attemptTwice action.run want s) := by
  refine (hP.attemptOnce action want hs).andThen fun first hfirst => ?_
  split
  · exact .next hfirst
  · refine (hP.attemptOnce action want hfirst).andThen fun second hsecond => ?_
    split
    · exact .next hsecond
    · exact hP.failWith _ _ hsecond

theorem Kept.clientOp (op : ClientOp) (hs : P s) : Ends P (clientOp op s) := by
  cases op with
  | hostInitialize => exact hP.hostInitialize hs
  | readOcr => exact hP.readOcr hs
  | readRegister which => exact hP.readRegister which hs
  | readCardStatus => exact hP.readCardStatus hs
  | readBlock n => exact hP.readBlock n hs
  | setTemporaryLock locked => exact hP.setTemporaryLock locked hs
  | modifyPassword mask => exact hP.modifyPassword mask hs
  | forceErase => exact hP.forceErase hs
  | attempt action => exact hP.attemptTwice action _ hs
  | useImage which => exact useImage_ends which hs
  | queryLocked => exact queryLocked_ends hs

theorem Kept.runClient (op : ClientOp) (hs : P s) : Ends P (runClient op s) :=
  (hP.clientOp op hs).andThen fun _ hr => Ends.next _ (hP.onHost (·.addOutcome _) hr)

theorem Kept.reportAs (report : Report) (hs : P s) : Ensures (reportAs report s) P :=
  .next (hP.onHost (·.addReport _) hs)

theorem Kept.reportResult {r : ClientResult × State} (hr : P r.2) : Ensures (reportResult r) P := by
  unfold Machine.reportResult
  split <;> exact hP.reportAs _ hr

theorem Kept.confirmLock (locked : Bool) (hs : P s) : Ensures (confirmLock locked s) P := by
  refine (hP.runClient _ hs).andThen fun ocr hocr => ?_
  split
  · refine (hP.runClient _ hocr).andThen fun csd hcsd => ?_
    split
    · split <;> exact hP.reportAs _ hcsd
    · exact hP.reportResult hcsd
  · exact hP.reportResult hocr

theorem Kept.dispatch (action : UserAction) (hs : P s) : Ensures (dispatch action s) P := by
  refine (hP.runClient _ hs).andThen fun init hinit => ?_
  split
  · refine (hP.runClient _ hinit).andThen fun r hr => ?_
    split
    · exact hP.confirmLock _ hr
    · exact hP.reportResult hr
  · exact hP.reportResult hinit

/-- Whatever item of the stream is accepted. -/
theorem Kept.accept {item : WorkItem} (hreset : item = .blockReset → P s.blockReset) (hs : P s) :
    Ensures (accept item s) P := by
  cases item with
  | word w => exact hP.request w hs
  | client op => exact (hP.runClient op hs).andThen fun _ hr => .next hr
  | user action => exact hP.dispatch action hs
  | blockReset => exact .next (hreset rfl)

end

end Sys2Proof.Machine
end

section
/-!
PROOFS. The invariant of the machine: it holds at reset, every effect and every response keep it, and so does every step.
-/
namespace Sys2Proof.Machine

section
variable {s t : State}

theorem State.Inv.reset : State.reset.Inv where
  link := ⟨rfl, rfl⟩
  table := ⟨rfl, rfl⟩
  response := List.forall_mem_nil _
  host := ClientState.reset_sized
  sequencer := rfl

/-- Settles O11: reset leaves nothing recorded, nothing answered and no entry listed, and buffers of their sizes. -/
theorem invariantHoldsAtReset : Obligations.InvariantHoldsAtReset := State.Inv.reset

/-- The card type is outside the invariant. -/
theorem State.Inv.of_setCardType {c : CardType} (h : (s.setCardType c).Inv) : s.Inv := { h with }

theorem State.Inv.setSequencer_idle (h : s.Inv) : (s.setSequencer .idle).Inv := { h with sequencer := rfl }

theorem State.Inv.setWork (h : s.Inv) (w : List WorkItem) : (s.setWork w).Inv := { h with }

theorem State.Inv.setHost (h : s.Inv) {v : ClientState} (hv : v.sized) : (s.setHost v).Inv := { h with host := hv }

theorem State.Inv.blockReset (h : s.Inv) : s.blockReset.Inv where
  link := ⟨rfl, rfl⟩
  table := ⟨rfl, rfl⟩
  response := h.response
  host := h.host
  sequencer := rfl

theorem State.Inv.answer (h : s.Inv) (st : Status) (v : Byte) : (s.answer (responseWord st v)).Inv where
  link := h.link
  table := h.table
  response := List.forall_mem_append.2
    ⟨h.response, List.forall_mem_singleton.2 ⟨reservedField_responseWord st v, st, statusField_responseWord st v⟩⟩
  host := h.host
  sequencer := h.sequencer

theorem LinkRun.inv {es : List LinkEvent} (hrun : LinkRun s t es) (h : s.Inv) : t.Inv where
  link := by
    obtain ⟨hconsistent, hcs⟩ := h.link
    constructor
    · rw [hrun.history, consistentFrom_append, hcs, hconsistent, hrun.consistent, Bool.and_self]
    · rw [hrun.history, csAfter_append, hcs, hrun.cs]
  table := by
    simp only [State.TableInv, State.tableRead, hrun.crcTable, hrun.crcTableValid]
    exact h.table
  response := by
    simp only [State.ResponseInv, hrun.responses]
    exact h.response
  host := hrun.host ▸ h.host
  sequencer := hrun.sequencer.trans h.sequencer

/-- The table's entries are CRC7 of their index (R122). -/
theorem crcTableEntry_eq_crc7 : ∀ i : Byte, crcTableEntry i = (crc7 [i]).setWidth 8 := by decide +kernel

theorem Effect.inv {i : Instr} (heff : Effect s i t) (h : s.Inv) : t.Inv := by
  cases heff with
  | link hrun _ => exact hrun.inv h
  | build hwf hread =>
    obtain ⟨hcanonical, -⟩ := h.table
    exact { h with table := ⟨hwf hcanonical, fun i => (hread i).trans (congrArg some (crcTableEntry_eq_crc7 i))⟩ }
  | init hrun => exact (LinkRun.inv hrun h).of_setCardType.setSequencer_idle

theorem exec_inv {i : Instr} (h : s.Inv) (hexec : exec i s = .next t) : t.Inv := by
  obtain ⟨u, st, v, heff, rfl⟩ := exec_effect hexec
  exact (heff.inv h).answer st v

theorem request_inv (w : CodedWord) (h : s.Inv) : Ensures (request w s) State.Inv := by
  cases hw : decode w with
  | ok i =>
    rw [request_legal hw]
    exact fun _ hexec => exec_inv h hexec
  | error e =>
    rw [request_illegal hw]
    exact .next (h.answer _ _)

theorem kept_inv : Kept State.Inv where
  request w _ h := request_inv w h
  setHost hsized h := h.setHost (hsized h.host)

end

/-- Settles O12: the step waits, or accepts one item of the stream, and no item breaks the invariant. -/
theorem everyStepKeepsTheInvariant : Obligations.EveryStepKeepsTheInvariant := by
  unfold Obligations.EveryStepKeepsTheInvariant
  intro s t h hstep
  cases hwork : s.work with
  | nil =>
    rw [step_nil h.sequencer hwork] at hstep
    exact Host.Outcome.next.inj hstep ▸ h
  | cons item rest =>
    rw [step_cons h.sequencer hwork] at hstep
    exact kept_inv.accept (fun _ => (h.setWork rest).blockReset) (h.setWork rest) t hstep

end Sys2Proof.Machine
end

section
/-!
PROOFS. The link and the responses over time: the card's answers are used up in order, and only a block reset takes an event or a
response back.
-/
namespace Sys2Proof.Machine

/-! ### The card's answers (R53) -/

/-- An effect on the link: events at the end of the history, whose received bytes use up the card's next answers (R53). Building the
table adds none. -/
theorem Effect.traffic {i : Instr} {s u : State} (h : Effect s i u) :
    ∃ es, u.history = s.history ++ es ∧
      (receivedBytes es).take s.cardAnswers.length = s.cardAnswers.take (xferCount es) ∧
      u.cardAnswers = s.cardAnswers.drop (xferCount es) := by
  cases h with
  | link hrun _ => exact ⟨_, hrun.history, hrun.received, hrun.answers⟩
  | build _ _ => exact ⟨[], (List.append_nil _).symm, List.take_nil, rfl⟩
  | init hrun => exact ⟨_, hrun.history, hrun.received, hrun.answers⟩

/-- Settles O20: the instruction's effect is the traffic, and its response touches neither the history nor the card's answers. -/
theorem receivedBytesAreTheCardsAnswers : Obligations.ReceivedBytesAreTheCardsAnswers := by
  unfold Obligations.ReceivedBytesAreTheCardsAnswers
  intro i s t hexec
  obtain ⟨u, st, v, heff, rfl⟩ := exec_effect hexec
  exact heff.traffic

/-! ### Growth of the history and the responses -/

/-- `t` has recorded what `s` has recorded and answered what `s` has answered, and maybe more after it. -/
def Grows (s t : State) : Prop := s.history <+: t.history ∧ s.responses <+: t.responses

section
variable {s t u : State}

theorem Grows.refl (s : State) : Grows s s := ⟨List.prefix_rfl, List.prefix_rfl⟩

theorem Grows.trans (h : Grows s t) (k : Grows t u) : Grows s u := ⟨h.1.trans k.1, h.2.trans k.2⟩

theorem Grows.setSequencer (h : Grows s t) (q : Sequencer) : Grows s (t.setSequencer q) := h

theorem Grows.setHost (h : Grows s t) (v : ClientState) : Grows s (t.setHost v) := h

theorem grows_answer (s : State) (y : ResponseWord) : Grows s (s.answer y) := ⟨List.prefix_rfl, List.prefix_append _ _⟩

theorem TypingRun.grows {es : List LinkEvent} (h : TypingRun s t es) : Grows s t :=
  ⟨⟨es, h.history.symm⟩, (LinkRun.responses h).symm ▸ List.prefix_rfl⟩

theorem LinkRun.grows {es : List LinkEvent} (h : LinkRun s t es) : Grows s t := h.typing.grows

theorem Effect.grows {i : Instr} (h : Effect s i t) : Grows s t := by
  obtain ⟨es, hhistory, -⟩ := h.traffic
  exact ⟨⟨es, hhistory.symm⟩, h.responses.symm ▸ List.prefix_rfl⟩

theorem exec_grows {i : Instr} (hexec : exec i s = .next t) : Grows s t := by
  obtain ⟨u, st, v, heff, rfl⟩ := exec_effect hexec
  exact heff.grows.trans (grows_answer _ _)

theorem request_grows (w : CodedWord) (s : State) : Ensures (request w s) (Grows s) := by
  cases hw : decode w with
  | ok i =>
    rw [request_legal hw]
    exact fun _ hexec => exec_grows hexec
  | error e =>
    rw [request_illegal hw]
    exact .next (grows_answer _ _)

/-- What a state has recorded and answered stays, over every request and every change of the host. -/
theorem kept_grows (s : State) : Kept (Grows s) where
  request w t h := fun u hu => h.trans (request_grows w t u hu)
  setHost _ h := h.setHost _

end

/-! ### An operation in progress (entry 8) -/

section
variable (n : Nat) (s : State)

/-- One transition of the sequencer, from each of its states: link traffic, or a response at the end. -/
theorem sequencerStep_setSequencer_grows (q : Sequencer) : Grows s (sequencerStep n (s.setSequencer q)) := by
  cases q with
  | idle => exact .refl s
  | powerSettle =>
    obtain ⟨_, -, hrun⟩ := powerSettle_run n s
    rw [sequencerStep_powerSettle]
    exact hrun.grows.setSequencer _
  | idleHandshake =>
    obtain ⟨_, -, hrun, -⟩ := idleHandshake_run s
    obtain ⟨_, _, hblock, -⟩ := setBlockLength_run (idleHandshake s).2
    rw [sequencerStep_idleHandshake]
    split
    · exact (hrun.trans hblock).grows.setSequencer _
    · exact hrun.grows.setSequencer _
  | probeCapability =>
    obtain ⟨_, h₈, -⟩ := probeIfCond_run s
    obtain ⟨_, h₅₈, -⟩ := probeOcr_run (probeIfCond s).2
    rw [sequencerStep_probeCapability]
    split
    · exact h₈.grows.setSequencer _
    · split <;> exact (h₈.trans h₅₈).grows.setSequencer _
  | highCapacityInit =>
    obtain ⟨_, hrun⟩ := highCapacityInit_run s
    rw [sequencerStep_highCapacityInit]
    exact hrun.grows.setSequencer _
  | legacyInit =>
    obtain ⟨_, hrun⟩ := legacyInit_run s
    rw [sequencerStep_legacyInit]
    exact hrun.grows.setSequencer _
  | ready =>
    obtain ⟨_, hrun⟩ := readyReply_run s
    rw [sequencerStep_ready]
    exact (hrun.grows.trans (grows_answer _ _)).setSequencer _
  | notDetected =>
    rw [sequencerStep_notDetected]
    exact (grows_answer s _).setSequencer _

theorem sequencerStep_grows : Grows s (sequencerStep n s) := sequencerStep_setSequencer_grows n s s.sequencer

theorem repeat_sequencerStep_grows (k : Nat) : Grows s (Nat.repeat (sequencerStep n) k s) := by
  induction k with
  | zero => exact .refl s
  | succ k ih => exact ih.trans (sequencerStep_grows n _)

theorem runSequencer_grows : Grows s (runSequencer n s) := repeat_sequencerStep_grows n s 5

end

theorem step_busy {s : State} (hbusy : s.sequencer ≠ .idle) : step s = .next (runSequencer Config.nSettle s) := by
  unfold step
  split
  · exact absurd ‹_› hbusy
  · rfl

/-- Settles O13: the step waits, runs the sequencer to its end, or accepts an item of the stream that is no block reset. -/
theorem historyAndResponsesOnlyGrow : Obligations.HistoryAndResponsesOnlyGrow := by
  unfold Obligations.HistoryAndResponsesOnlyGrow
  intro s t hreset hstep
  by_cases hidle : s.sequencer = .idle
  · cases hwork : s.work with
    | nil =>
      rw [step_nil hidle hwork] at hstep
      exact Host.Outcome.next.inj hstep ▸ Grows.refl s
    | cons item rest =>
      rw [step_cons hidle hwork] at hstep
      have hitem : item = .blockReset → Grows s (s.setWork rest).blockReset := fun h =>
        absurd (h ▸ hwork) (hreset rest)
      exact (kept_grows s).accept hitem (Grows.refl s) t hstep
  · rw [step_busy hidle] at hstep
    exact Host.Outcome.next.inj hstep ▸ runSequencer_grows _ s

end Sys2Proof.Machine
end

section
/-!
PROOFS. Decoding and encoding: a word is its fields, decoding and encoding undo each other, and the decoder accepts the rows of the
opcode table.
-/
namespace Sys2Proof.Machine

/-- Two fields side by side, as a number. -/
theorem toNat_append_add {m n : Nat} (x : BitVec m) (y : BitVec n) : (x ++ y).toNat = x.toNat * 2 ^ n + y.toNat := by
  rw [BitVec.toNat_append, ← Nat.shiftLeft_add_eq_or_of_lt y.isLt, Nat.shiftLeft_eq]

/-! ### A request word and its fields (R70) -/

section
variable (op : BitVec 4) (a : Byte) (b : Word32)

@[simp] theorem opField_requestWord : opField (requestWord op a b).word = op :=
  (BitVec.extractLsb'_append_eq_of_le (by decide)).trans <|
    (BitVec.extractLsb'_append_eq_of_le (by decide)).trans BitVec.extractLsb'_append_eq_left

@[simp] theorem rsvField_requestWord : rsvField (requestWord op a b).word = 0#4 :=
  (BitVec.extractLsb'_append_eq_of_le (by decide)).trans <|
    (BitVec.extractLsb'_append_eq_of_le (by decide)).trans BitVec.extractLsb'_append_eq_right

@[simp] theorem aField_requestWord : aField (requestWord op a b).word = a :=
  (BitVec.extractLsb'_append_eq_of_le (by decide)).trans BitVec.extractLsb'_append_eq_right

@[simp] theorem bField_requestWord : bField (requestWord op a b).word = b := BitVec.extractLsb'_append_eq_right

theorem toNat_requestWord : (requestWord op a b).word.toNat = op.toNat * 2 ^ 44 + a.toNat * 2 ^ 32 + b.toNat := by
  simp only [requestWord, toNat_append_add, BitVec.toNat_ofNat]
  omega

end

/-- A request word with RSV zero is made of its fields. -/
theorem requestWord_fields {w : Word48} (hrsv : rsvField w = 0#4) :
    requestWord (opField w) (aField w) (bField w) = ⟨.hostRequest, w⟩ := by
  have hw : opField w ++ rsvField w ++ aField w ++ bField w = w := by
    simp only [opField, rsvField, aField, bField]
    rw [BitVec.extractLsb'_append_extractLsb'_eq_extractLsb' (rfl : 44 = 40 + 4),
      BitVec.extractLsb'_append_extractLsb'_eq_extractLsb' (rfl : 40 = 32 + 8),
      BitVec.extractLsb'_append_extractLsb'_eq_extractLsb' (rfl : 32 = 0 + 32)]
    exact BitVec.extractLsb'_eq_self
  rw [hrsv] at hw
  exact congrArg (CodedWord.mk .hostRequest) hw

/-! ### A frame and its fields (R77, R80) -/

section
variable (command : Byte) (argument : Word32) (crc : Byte)

@[simp] theorem frameCommand_frameWord : frameCommand (frameWord command argument crc).word = command :=
  (BitVec.extractLsb'_append_eq_of_le (by decide)).trans BitVec.extractLsb'_append_eq_left

@[simp] theorem frameArgument_frameWord : frameArgument (frameWord command argument crc).word = argument :=
  (BitVec.extractLsb'_append_eq_of_le (by decide)).trans BitVec.extractLsb'_append_eq_right

@[simp] theorem frameCrc_frameWord : frameCrc (frameWord command argument crc).word = crc :=
  BitVec.extractLsb'_append_eq_right

end

/-- A frame is made of its fields. -/
theorem frameWord_fields (w : Word48) :
    frameWord (frameCommand w) (frameArgument w) (frameCrc w) = ⟨.sdFrame, w⟩ := by
  have hw : frameCommand w ++ frameArgument w ++ frameCrc w = w := by
    simp only [frameCommand, frameArgument, frameCrc]
    rw [BitVec.extractLsb'_append_extractLsb'_eq_extractLsb' (rfl : 40 = 8 + 32),
      BitVec.extractLsb'_append_extractLsb'_eq_extractLsb' (rfl : 8 = 0 + 8)]
    exact BitVec.extractLsb'_eq_self
  exact congrArg (CodedWord.mk .sdFrame) hw

/-! ### Decoding what was encoded -/

/-- The operand B of CRC_EXTEND (R71): the CRC, and 25 zero bits above it. -/
theorem crcOperand_fields (crc : Crc7) :
    (0#25 ++ crc).extractLsb' 7 25 = 0#25 ∧ (0#25 ++ crc).extractLsb' 0 7 = crc :=
  ⟨BitVec.extractLsb'_append_eq_left, BitVec.extractLsb'_append_eq_right⟩

theorem toNat_crcOperand (crc : Crc7) : (0#25 ++ crc : Word32).toNat = crc.toNat :=
  (toNat_append_add _ _).trans (by simp)

theorem decode_requestWord (op : BitVec 4) (a : Byte) (b : Word32) :
    decode (requestWord op a b) = decodeRequest (requestWord op a b).word := rfl

theorem decode_frameWord (command : Byte) (argument : Word32) (crc : Byte) :
    decode (frameWord command argument crc) = decodeFrame (frameWord command argument crc).word := rfl

theorem decode_encode (i : Instr) : decode (encode i) = .ok i := by
  cases i with
  | crcExtend crc b =>
    obtain ⟨hzero, hcrc⟩ := crcOperand_fields crc
    simp [encode, decode_requestWord, decodeRequest, requireZero, hzero, hcrc]
  | exchange | select | deselect | crcBuild | sendCommand | waitToken | decodeErrorToken | initializeCard | status =>
    simp [encode, decode_requestWord, decodeRequest, requireZero]
  | setBlocklen | readSingleBlock =>
    simp [encode, decode_frameWord, decodeFrame, openFrame]
  | goIdleState | sdSendOpCondLegacy | sendIfCond | sendCsd | sendCid | sendStatus | programCsd | lockUnlock | appCmd
  | readOcr | sdSendOpCond =>
    simp [encode, decode_frameWord, decodeFrame, fixedFrame]

/-- Settles O1: the fields of an encoding are the ones it was given. -/
theorem decodeOfEncodeIsTheInstruction : Obligations.DecodeOfEncodeIsTheInstruction := by
  unfold Obligations.DecodeOfEncodeIsTheInstruction
  exact fun i _ => decode_encode i

/-! ### Encoding what was decoded -/

theorem requireZero_eq_ok {n : Nat} {a : Byte} {b : BitVec n} {i j : Instr} :
    requireZero a b i = .ok j ↔ a = 0#8 ∧ b = 0#n ∧ i = j := by
  by_cases ha : a = 0#8 <;> by_cases hb : b = 0#n <;> simp [requireZero, ha, hb]

theorem fixedFrame_eq_ok {w : Word48} {argument : Word32} {crc : Byte} {i j : Instr} :
    fixedFrame w argument crc i = .ok j ↔ frameArgument w = argument ∧ frameCrc w = crc ∧ i = j := by
  rw [← and_assoc, fixedFrame]
  split <;> simp [*]

theorem openFrame_eq_ok {w : Word48} {i : Word32 → Instr} {j : Instr} :
    openFrame w i = .ok j ↔ frameCrc w = 0x01#8 ∧ i (frameArgument w) = j := by
  rw [openFrame]
  split <;> simp [*]

theorem encode_of_decodeRequest {w : Word48} {i : Instr} (h : decodeRequest w = .ok i) :
    encode i = ⟨.hostRequest, w⟩ := by
  simp only [decodeRequest] at h
  split at h
  · cases h
  next hrsv =>
  rw [← requestWord_fields (not_not.1 hrsv)]
  split at h
  case h_1 hop | h_8 hop =>
    obtain ⟨-, hb, rfl⟩ := requireZero_eq_ok.1 h
    rw [hop, hb, encode]
  case h_2 hop | h_3 hop | h_4 hop | h_7 hop | h_9 hop | h_10 hop =>
    obtain ⟨ha, hb, rfl⟩ := requireZero_eq_ok.1 h
    rw [hop, ha, hb, encode]
  case h_5 hop =>
    obtain ⟨-, hhigh, rfl⟩ := requireZero_eq_ok.1 h
    have hb : 0#25 ++ (bField w).extractLsb' 0 7 = bField w := by
      rw [← hhigh, BitVec.extractLsb'_append_extractLsb'_eq_extractLsb' (rfl : 7 = 0 + 7)]
      exact BitVec.extractLsb'_eq_self
    rw [hop, encode, hb]
  case h_6 hop =>
    obtain rfl := Except.ok.inj h
    rw [hop, encode]
  case h_11 => cases h

theorem encode_of_decodeFrame {w : Word48} {i : Instr} (h : decodeFrame w = .ok i) : encode i = ⟨.sdFrame, w⟩ := by
  rw [← frameWord_fields w]
  simp only [decodeFrame] at h
  split at h
  case h_7 hcommand | h_8 hcommand =>
    obtain ⟨hcrc, rfl⟩ := openFrame_eq_ok.1 h
    rw [hcommand, hcrc, encode]
  case h_1 hcommand | h_2 hcommand | h_3 hcommand | h_4 hcommand | h_5 hcommand | h_6 hcommand | h_9 hcommand
    | h_10 hcommand | h_11 hcommand | h_12 hcommand | h_13 hcommand =>
    obtain ⟨hargument, hcrc, rfl⟩ := fixedFrame_eq_ok.1 h
    rw [hcommand, hargument, hcrc, encode]
  case h_14 => cases h

theorem encode_of_decode {t : CodedWord} {i : Instr} (h : decode t = .ok i) : encode i = t := by
  obtain ⟨format, w⟩ := t
  cases format with
  | hostRequest => exact encode_of_decodeRequest h
  | sdFrame => exact encode_of_decodeFrame h

/-- Settles O2: in each row the fields that the decoder checks are the ones that the encoder fixes. -/
theorem encodeOfDecodeIsTheWord : Obligations.EncodeOfDecodeIsTheWord := by
  unfold Obligations.EncodeOfDecodeIsTheWord
  exact fun _ _ => encode_of_decode

/-! ### The rows of the opcode table -/

/-- Every encoding is a word of its own row. -/
theorem encode_in_own_row (i : Instr) : Laws.TableRow.Statement i := by
  cases i with
  | exchange b => exact Laws.TableRow.exchange b
  | select => exact Laws.TableRow.select
  | deselect => exact Laws.TableRow.deselect
  | crcBuild => exact Laws.TableRow.crcBuild
  | crcExtend crc b => exact Laws.TableRow.crcExtend crc b
  | sendCommand k a => exact Laws.TableRow.sendCommand k a
  | waitToken => exact Laws.TableRow.waitToken
  | decodeErrorToken k => exact Laws.TableRow.decodeErrorToken k
  | initializeCard => exact Laws.TableRow.initializeCard
  | status => exact Laws.TableRow.status
  | goIdleState => exact Laws.TableRow.goIdleState
  | sdSendOpCondLegacy => exact Laws.TableRow.sdSendOpCondLegacy
  | sendIfCond => exact Laws.TableRow.sendIfCond
  | sendCsd => exact Laws.TableRow.sendCsd
  | sendCid => exact Laws.TableRow.sendCid
  | sendStatus => exact Laws.TableRow.sendStatus
  | setBlocklen n => exact Laws.TableRow.setBlocklen n
  | readSingleBlock a => exact Laws.TableRow.readSingleBlock a
  | programCsd => exact Laws.TableRow.programCsd
  | lockUnlock => exact Laws.TableRow.lockUnlock
  | appCmd => exact Laws.TableRow.appCmd
  | readOcr => exact Laws.TableRow.readOcr
  | sdSendOpCond => exact Laws.TableRow.sdSendOpCond

/-- Every word of the row is the encoding of an instruction that the row names. -/
def EncodesRow (r : TableRow) : Prop := ∀ t, r.covers t = true → ∃ i, encode i = t ∧ mnemonic i = r.mnemonic

section
variable {r : TableRow} {t : CodedWord}

theorem covers_iff : r.covers t = true ↔ r.format = t.format ∧ t.word &&& r.mask = r.pattern := by
  simp [TableRow.covers]

/-- A field that the mask covers whole has the value of the pattern. -/
theorem field_of_covers (h : r.covers t = true) {start len : Nat}
    (hmask : r.mask.extractLsb' start len = BitVec.allOnes len) :
    t.word.extractLsb' start len = r.pattern.extractLsb' start len := by
  obtain ⟨-, hpattern⟩ := covers_iff.1 h
  rw [← hpattern, BitVec.extractLsb'_and, hmask, BitVec.and_allOnes]

/-- The words of a request row whose mask covers OP and RSV. -/
theorem requestWord_of_covers (h : r.covers t = true) {op : BitVec 4} (hf : r.format = .hostRequest)
    (hmask : r.mask.extractLsb' 40 4 = BitVec.allOnes 4 ∧ r.mask.extractLsb' 44 4 = BitVec.allOnes 4)
    (hpattern : r.pattern.extractLsb' 40 4 = 0#4 ∧ r.pattern.extractLsb' 44 4 = op) :
    requestWord op (aField t.word) (bField t.word) = t := by
  have hrsv : rsvField t.word = 0#4 := (field_of_covers h hmask.1).trans hpattern.1
  have hop : opField t.word = op := (field_of_covers h hmask.2).trans hpattern.2
  rw [← hop, requestWord_fields hrsv, ← hf, (covers_iff.1 h).1]

/-- A row with one word. -/
theorem encodesRow_of_fullMask (i : Instr) (hmask : r.mask = BitVec.allOnes 48) (hi : encode i = ⟨r.format, r.pattern⟩)
    (hm : mnemonic i = r.mnemonic) : EncodesRow r := by
  intro t h
  obtain ⟨hformat, hword⟩ := covers_iff.1 h
  rw [hmask, BitVec.and_allOnes] at hword
  exact ⟨i, by rw [hi, hformat, ← hword], hm⟩

/-- A request row whose only operand is A. -/
theorem encodesRow_of_byteOperand (i : Byte → Instr) {op : BitVec 4} (hi : ∀ a, encode (i a) = requestWord op a 0#32)
    (hm : ∀ a, mnemonic (i a) = r.mnemonic) (hf : r.format = .hostRequest) (hmask : r.mask = 0xFF00FFFFFFFF#48)
    (hpattern : r.pattern.extractLsb' 40 4 = 0#4 ∧ r.pattern.extractLsb' 44 4 = op)
    (hb : r.pattern.extractLsb' 0 32 = 0#32) : EncodesRow r := by
  intro t h
  refine ⟨i (aField t.word), ?_, hm _⟩
  have hzero : bField t.word = 0#32 := (field_of_covers h (by rw [hmask]; rfl)).trans hb
  rw [hi, ← hzero]
  exact requestWord_of_covers h hf (by rw [hmask]; exact ⟨rfl, rfl⟩) hpattern

/-- A frame row with any argument (R166, R167). -/
theorem encodesRow_of_openFrame (i : Word32 → Instr) {command : Byte}
    (hi : ∀ a, encode (i a) = frameWord command a 0x01#8) (hm : ∀ a, mnemonic (i a) = r.mnemonic)
    (hf : r.format = .sdFrame) (hmask : r.mask = 0xFF00000000FF#48)
    (hcommand : r.pattern.extractLsb' 40 8 = command) (hcrc : r.pattern.extractLsb' 0 8 = 0x01#8) : EncodesRow r := by
  intro t h
  refine ⟨i (frameArgument t.word), ?_, hm _⟩
  have hcommand' : frameCommand t.word = command := (field_of_covers h (by rw [hmask]; rfl)).trans hcommand
  have hcrc' : frameCrc t.word = 0x01#8 := (field_of_covers h (by rw [hmask]; rfl)).trans hcrc
  rw [hi, ← hcommand', ← hcrc', frameWord_fields, ← hf, (covers_iff.1 h).1]

end

theorem encodesRow_crcExtend : EncodesRow ⟨"CRC_EXTEND", .hostRequest, 0x500000000000#48, 0xFF00FFFFFF80#48⟩ := by
  intro t h
  refine ⟨.crcExtend (t.word.extractLsb' 0 7) (aField t.word), ?_, rfl⟩
  have hhigh : t.word.extractLsb' 7 25 = 0#25 := field_of_covers h rfl
  have hb : 0#25 ++ t.word.extractLsb' 0 7 = bField t.word := by
    rw [← hhigh]
    exact BitVec.extractLsb'_append_extractLsb'_eq_extractLsb' rfl
  rw [encode, hb]
  exact requestWord_of_covers h rfl ⟨rfl, rfl⟩ ⟨rfl, rfl⟩

theorem encodesRow_sendCommand : EncodesRow ⟨"SEND_COMMAND", .hostRequest, 0x600000000000#48, 0xFF0000000000#48⟩ :=
  fun t h => ⟨.sendCommand (aField t.word) (bField t.word),
    requestWord_of_covers h rfl ⟨rfl, rfl⟩ ⟨rfl, rfl⟩, rfl⟩

theorem encodesRow_of_mem_requestRows : ∀ r ∈ requestRows, EncodesRow r := by
  simp only [requestRows, List.forall_mem_cons]
  exact ⟨encodesRow_of_byteOperand .exchange (fun _ => rfl) (fun _ => rfl) rfl rfl ⟨rfl, rfl⟩ rfl,
    encodesRow_of_fullMask .select rfl rfl rfl, encodesRow_of_fullMask .deselect rfl rfl rfl,
    encodesRow_of_fullMask .crcBuild rfl rfl rfl, encodesRow_crcExtend, encodesRow_sendCommand,
    encodesRow_of_fullMask .waitToken rfl rfl rfl,
    encodesRow_of_byteOperand .decodeErrorToken (fun _ => rfl) (fun _ => rfl) rfl rfl ⟨rfl, rfl⟩ rfl,
    encodesRow_of_fullMask .initializeCard rfl rfl rfl, encodesRow_of_fullMask .status rfl rfl rfl, List.forall_mem_nil _⟩

theorem encodesRow_of_mem_frameRows : ∀ r ∈ frameRows, EncodesRow r := by
  simp only [frameRows, List.forall_mem_cons]
  exact ⟨encodesRow_of_fullMask .goIdleState rfl rfl rfl, encodesRow_of_fullMask .sdSendOpCondLegacy rfl rfl rfl,
    encodesRow_of_fullMask .sendIfCond rfl rfl rfl, encodesRow_of_fullMask .sendCsd rfl rfl rfl,
    encodesRow_of_fullMask .sendCid rfl rfl rfl, encodesRow_of_fullMask .sendStatus rfl rfl rfl,
    encodesRow_of_openFrame .setBlocklen (fun _ => rfl) (fun _ => rfl) rfl rfl rfl rfl,
    encodesRow_of_openFrame .readSingleBlock (fun _ => rfl) (fun _ => rfl) rfl rfl rfl rfl,
    encodesRow_of_fullMask .programCsd rfl rfl rfl, encodesRow_of_fullMask .lockUnlock rfl rfl rfl,
    encodesRow_of_fullMask .appCmd rfl rfl rfl, encodesRow_of_fullMask .readOcr rfl rfl rfl,
    encodesRow_of_fullMask .sdSendOpCond rfl rfl rfl, List.forall_mem_nil _⟩

/-- Settles O3: an accepted word is the encoding of its instruction, which is in the row of that name; and every word of a row is an
encoding. -/
theorem decoderAcceptsExactlyTheTableRows : Obligations.DecoderAcceptsExactlyTheTableRows := by
  unfold Obligations.DecoderAcceptsExactlyTheTableRows
  intro t
  constructor
  · intro i h
    obtain ⟨r, hr, hm, hcovers⟩ := encode_in_own_row i
    rw [encode_of_decode h] at hcovers
    exact ⟨r, hr, hcovers, hm⟩
  · intro r hr hcovers
    have hrow : EncodesRow r := (List.mem_append.1 hr).elim (encodesRow_of_mem_requestRows r) (encodesRow_of_mem_frameRows r)
    obtain ⟨i, rfl, hm⟩ := hrow t hcovers
    exact ⟨i, decode_encode i, hm⟩

/-- Settles O4: closed words, decoded. -/
theorem wordsOfTheSpecDecode : Obligations.WordsOfTheSpecDecode := by
  unfold Obligations.WordsOfTheSpecDecode
  decide

/-! ### The assembler (R88, R89) -/

/-- A request word as the number that R88 writes. -/
theorem requestWord_eq_ofNat (op : BitVec 4) (a : Byte) (b : Word32) :
    requestWord op a b = ⟨.hostRequest, BitVec.ofNat 48 (op.toNat * 2 ^ 44 + a.toNat * 2 ^ 32 + b.toNat)⟩ := by
  rw [← toNat_requestWord, BitVec.ofNat_toNat, BitVec.setWidth_eq]
  rfl

theorem assemble_of_wellFormed {l : AsmLine} {p : Prop} [Decidable p] {t : CodedWord} (hl : l.wellFormed = true ↔ p)
    (ht : p → l.word = t) : assemble l = if p then some t else none := by
  by_cases hp : p
  · rw [if_pos hp, assemble, if_pos (hl.2 hp), ht hp]
  · rw [if_neg hp, assemble, if_neg (mt hl.1 hp)]

/-- Settles O5: the word of a line is the number of its fields, and an operand that fits its field is its own value there. -/
theorem assemblerGivesTheWordsOfTheRule : Obligations.AssemblerGivesTheWordsOfTheRule := by
  unfold Obligations.AssemblerGivesTheWordsOfTheRule
  refine ⟨fun b => assemble_of_wellFormed (by simp [AsmLine.wellFormed]) fun hb => ?_, rfl, rfl, rfl,
    fun c b => assemble_of_wellFormed (by simp [AsmLine.wellFormed]) fun ⟨hc, hb⟩ => ?_,
    fun k a => assemble_of_wellFormed (by simp [AsmLine.wellFormed]) fun ⟨hk, ha⟩ => ?_, rfl,
    fun k => assemble_of_wellFormed (by simp [AsmLine.wellFormed]) fun hk => ?_, rfl, rfl⟩
  · simp (disch := omega) [AsmLine.word, encode, requestWord_eq_ofNat, Nat.mod_eq_of_lt]
  · simp (disch := omega) [AsmLine.word, encode, requestWord_eq_ofNat, toNat_crcOperand, Nat.mod_eq_of_lt]
  · simp (disch := omega) [AsmLine.word, cmdWord, encode, requestWord_eq_ofNat, Nat.mod_eq_of_lt]
  · simp (disch := omega) [AsmLine.word, encode, requestWord_eq_ofNat, Nat.mod_eq_of_lt]

/-- Settles O6: each line and its expansion are the same word by the assembler's own equations. -/
theorem pseudoInstructionsExpand : Obligations.PseudoInstructionsExpand := by
  unfold Obligations.PseudoInstructionsExpand
  exact ⟨rfl, rfl, rfl, rfl, rfl, rfl, rfl, fun _ => rfl, fun _ => rfl, rfl, rfl, rfl, rfl, rfl⟩

end Sys2Proof.Machine
end

section
/-!
PROOFS. The response to a word of the stream, legal or not.
-/
namespace Sys2Proof.Machine

/-! ### Illegal request words (R72) -/

/-- R72, over the fields OP, RSV, A and B of R70 as numbers: OP is reserved, or a field that its row of R71 requires to be zero is
not. -/
def IllegalFields (op rsv a b : Nat) : Prop :=
  op = 0 ∨ 0xB ≤ op ∨ rsv ≠ 0 ∨
    (op ∈ [0x2, 0x3, 0x4, 0x7, 0x9, 0xA] ∧ (a ≠ 0 ∨ b ≠ 0)) ∨
    (op ∈ [0x1, 0x8] ∧ b ≠ 0) ∨
    (op = 0x5 ∧ 2 ^ 7 ≤ b)

section
variable {w : Word48} {i : Instr}

/-- The fields of a request word, as numbers. -/
theorem fields_of_requestWord {op : BitVec 4} {a : Byte} {b : Word32} (h : requestWord op a b = ⟨.hostRequest, w⟩) :
    w.toNat / 2 ^ 44 = op.toNat ∧ w.toNat / 2 ^ 40 % 2 ^ 4 = 0 ∧ w.toNat / 2 ^ 32 % 2 ^ 8 = a.toNat ∧
      w.toNat % 2 ^ 32 = b.toNat := by
  have hw : w.toNat = op.toNat * 2 ^ 44 + a.toNat * 2 ^ 32 + b.toNat := by rw [← toNat_requestWord, h]
  omega

/-- The fields of an instruction's own word are legal. -/
theorem not_illegalFields_of_encode (h : encode i = ⟨.hostRequest, w⟩) :
    ¬ IllegalFields (w.toNat / 2 ^ 44) (w.toNat / 2 ^ 40 % 2 ^ 4) (w.toNat / 2 ^ 32 % 2 ^ 8) (w.toNat % 2 ^ 32) := by
  cases i with
  | exchange | select | deselect | crcBuild | sendCommand | waitToken | decodeErrorToken | initializeCard | status =>
    obtain ⟨hop, hrsv, ha, hb⟩ := fields_of_requestWord h
    rw [hop, hrsv, ha, hb]
    simp [IllegalFields]
  | crcExtend crc b =>
    obtain ⟨hop, hrsv, ha, hb⟩ := fields_of_requestWord h
    rw [hop, hrsv, ha, hb, toNat_crcOperand]
    simp [IllegalFields, crc.isLt]
  | goIdleState | sdSendOpCondLegacy | sendIfCond | sendCsd | sendCid | sendStatus | setBlocklen | readSingleBlock
  | programCsd | lockUnlock | appCmd | readOcr | sdSendOpCond => cases congrArg CodedWord.format h

theorem decode_of_illegalFields
    (h : IllegalFields (w.toNat / 2 ^ 44) (w.toNat / 2 ^ 40 % 2 ^ 4) (w.toNat / 2 ^ 32 % 2 ^ 8) (w.toNat % 2 ^ 32)) :
    ∃ e, decode ⟨.hostRequest, w⟩ = .error e := by
  cases hw : decode ⟨.hostRequest, w⟩ with
  | ok i => exact absurd h (not_illegalFields_of_encode (encode_of_decode hw))
  | error e => exact ⟨e, rfl⟩

end

/-- Settles O8: a word that decodes is the encoding of its instruction, whose fields are legal; so this word does not decode. -/
theorem illegalRequestIsAnsweredAndChangesNothing : Obligations.IllegalRequestIsAnsweredAndChangesNothing := by
  unfold Obligations.IllegalRequestIsAnsweredAndChangesNothing
  intro s w rest hidle hwork hillegal
  obtain ⟨e, he⟩ := decode_of_illegalFields hillegal
  rw [step_cons hidle hwork]
  exact request_illegal he _

/-! ### One response for each word (R74) -/

section
variable {s t u : State}

theorem Effect.work {i : Instr} (h : Effect s i u) : u.work = s.work := by
  cases h with
  | link hrun _ => exact hrun.work
  | build _ _ => rfl
  | init hrun => exact hrun.work

/-- Every request answers once and leaves the stream alone. -/
theorem request_answers {w : CodedWord} (h : request w s = .next t) :
    t.work = s.work ∧ ∃ st v, t.responses = s.responses ++ [responseWord st v] := by
  cases hw : decode w with
  | ok i =>
    rw [request_legal hw] at h
    obtain ⟨u, st, v, heff, rfl⟩ := exec_effect h
    exact ⟨heff.work, st, v, by rw [State.answer_responses, heff.responses]⟩
  | error e =>
    rw [request_illegal hw] at h
    obtain rfl := Host.Outcome.next.inj h
    exact ⟨rfl, .illegalRequest, 0x00#8, rfl⟩

end

/-- A response word as a number (R75). -/
theorem toNat_responseWord (st : Status) (v : Byte) :
    (responseWord st v).toNat = st.code.toNat * 2 ^ 12 + v.toNat := by
  simp only [responseWord, toNat_append_add, BitVec.toNat_ofNat]
  omega

/-- The status codes of R76. -/
theorem Status.code_mem (st : Status) : st.code.toNat ∈ [0x0, 0x1, 0x2, 0x3, 0x4, 0xE, 0xF] := by
  cases st <;> decide

/-- Settles O10: the step accepts the word, and its request answers once, with a word of R75. -/
theorem everyRequestGetsOneResponse : Obligations.EveryRequestGetsOneResponse := by
  unfold Obligations.EveryRequestGetsOneResponse
  intro s t w rest hidle hwork hstep
  rw [step_cons hidle hwork] at hstep
  obtain ⟨hrest, st, v, hresponses⟩ := request_answers hstep
  have hcode : (responseWord st v).toNat / 2 ^ 12 = st.code.toNat := by rw [toNat_responseWord]; omega
  refine ⟨hrest, responseWord st v, hresponses, ?_, ?_⟩
  · rw [toNat_responseWord]
    omega
  · rw [hcode]
    exact st.code_mem

end Sys2Proof.Machine
end

section
/-!
PROOFS. SEND_COMMAND and the SD commands: what of the command byte counts, and the frame and the traffic of each row.
-/
namespace Sys2Proof.Machine

/-! ### The host command byte (R78) -/

/-- Of the command byte, only the ACMD flag and the index count. -/
theorem sendCommand_congr {c d : Byte} (hflag : acmdFlag c = acmdFlag d) (hindex : commandIndex c = commandIndex d)
    (a : Word32) (s : State) : sendCommand c a s = sendCommand d a s := by
  simp only [sendCommand, hflag, hindex]

theorem acmdFlag_xor_bit6 (c : Byte) : acmdFlag (c ^^^ 0x40#8) = acmdFlag c :=
  BitVec.msb_xor.trans (Bool.xor_false _)

theorem commandIndex_xor_bit6 (c : Byte) : commandIndex (c ^^^ 0x40#8) = commandIndex c := by
  simp [commandIndex, BitVec.extractLsb'_xor]

/-- Settles O37: the flag is bit 7 and the index is bits 5 to 0. -/
theorem commandByteBit6IsIgnored : Obligations.CommandByteBit6IsIgnored := by
  unfold Obligations.CommandByteBit6IsIgnored
  intro c a s
  simp only [exec, execSendCommand, sendCommand_congr (acmdFlag_xor_bit6 c) (commandIndex_xor_bit6 c)]

/-! ### The rows of the SD commands (R80) -/

/-- `i` is the SEND_COMMAND of this command byte and argument, and its word is the frame that they make. -/
def SendsFrame (i : Instr) (c : Byte) (a : Word32) : Prop :=
  (encode i).word = frameOf (c.setWidth 6) a ∧
    ∀ s : State, ∃ (es : List LinkEvent) (st : Status) (r : Byte) (u : State),
      exec i s = .next (u.answer (st.code ++ 0#4 ++ r)) ∧ LinkRun s u es ∧ CommandTraffic c a es st r

/-- A row whose frame has the index of the command byte and that index's CRC byte, and whose meaning is that SEND_COMMAND. -/
theorem sendsFrame_of_row {i : Instr} {c : Byte} {a : Word32}
    (hword : encode i = frameWord (0b01#2 ++ (c.setWidth 6 : CommandIndex)) a (frameCrcByte (c.setWidth 6)))
    (hexec : ∀ s, exec i s = execSendCommand c a s) : SendsFrame i c a := by
  refine ⟨congrArg CodedWord.word hword, fun s => ?_⟩
  obtain ⟨es, hrun, htraffic⟩ := sendCommand_run c a s
  exact ⟨es, _, _, _, hexec s, hrun, htraffic⟩

/-- Settles O34, row by row: each row's word and meaning are those of its code and argument by definition. -/
theorem sdCommandsSendTheirFrames : Obligations.SdCommandsSendTheirFrames := by
  unfold Obligations.SdCommandsSendTheirFrames
  intro n
  simp only [List.forall_mem_cons]
  have row {i : Instr} {c : Byte} {a : Word32} := sendsFrame_of_row (i := i) (c := c) (a := a)
  exact ⟨row rfl fun _ => rfl, row rfl fun _ => rfl, row rfl fun _ => rfl, row rfl fun _ => rfl, row rfl fun _ => rfl,
    row rfl fun _ => rfl, row rfl fun _ => rfl, row rfl fun _ => rfl, row rfl fun _ => rfl, row rfl fun _ => rfl,
    row rfl fun _ => rfl, row rfl fun _ => rfl, row rfl fun _ => rfl, List.forall_mem_nil _⟩

end Sys2Proof.Machine
end

section
/-!
PROOFS. The bus exchange family (R100 to R104): the response of each instruction and what comes before it; and the instructions that only
answer.
-/
namespace Sys2Proof.Machine

/-! ### One transfer, and the chip select -/

/-- EXCHANGE is the exchange of its byte, then OK with the byte received (R100). -/
theorem exec_exchange (b : Byte) (s : State) :
    exec (.exchange b) s = .next ((exchange b s).2.answer (0x00#8 ++ (exchange b s).1)) := by
  rw [← responseWord_ok]
  rfl

/-- SELECT answers 0x0000 after `Select()` (R101). -/
theorem exec_select (s : State) : exec .select s = .next ((select s).answer 0x0000#16) := rfl

/-- DESELECT answers 0x0000 after `Deselect()` (R102). -/
theorem exec_deselect (s : State) : exec .deselect s = .next ((deselect s).answer 0x0000#16) := rfl

/-- Settles O25: the traffic of EXCHANGE is that of its one exchange. -/
theorem exchangeTransfersOneByte : Obligations.ExchangeTransfersOneByte := by
  unfold Obligations.ExchangeTransfersOneByte
  intro b s
  exact ⟨(exchange b s).1, (exchange b s).2, exec_exchange b s, exchange_run b s⟩

/-- Settles O26: `Select()` and `Deselect()` write the chip select and record their event, whatever it was. -/
theorem selectAndDeselectDriveTheChipSelect : Obligations.SelectAndDeselectDriveTheChipSelect := by
  unfold Obligations.SelectAndDeselectDriveTheChipSelect
  intro s
  constructor
  · rw [exec_select, select, State.setCs, State.record, State.answer]
  · rw [exec_deselect, deselect, State.setCs, State.record, State.answer]

/-! ### Instructions that only answer -/

/-- A meaning that responds at once changes nothing but the responses (R74). -/
theorem eq_answer_of_respond {st : Status} {v : Byte} {s t : State}
    (h : (.next (respond st v s) : Host.Outcome State Fault Refusal) = .next t) : ∃ y, t = s.answer y :=
  ⟨responseWord st v, (Host.Outcome.next.inj h).symm⟩

/-- Settles O23: each branch of the three meanings responds at once, but for CRC_EXTEND's read of an entry without value, which has no
next state. -/
theorem answerOnlyInstructionsFrame : Obligations.AnswerOnlyInstructionsFrame := by
  unfold Obligations.AnswerOnlyInstructionsFrame
  intro i s t hi h
  cases i with
  | crcExtend crc b =>
    simp only [exec, execCrcExtend] at h
    split at h
    · split at h
      · exact eq_answer_of_respond h
      · cases h
    · exact eq_answer_of_respond h
  | decodeErrorToken k =>
    simp only [exec, execDecodeErrorToken] at h
    split at h <;> exact eq_answer_of_respond h
  | status => exact eq_answer_of_respond h
  | _ => exact absurd hi Bool.false_ne_true

end Sys2Proof.Machine
end

section
/-!
PROOFS. The CRC-7 engine (R120 to R125): the CRC is linear, so one table lookup takes in a whole byte and the table is linear; what
CRC_BUILD leaves, what CRC_EXTEND answers, and what chaining it computes.
-/
namespace Sys2Proof.Machine

/-! ### Linearity of the CRC -/

/-- Exclusive-or-ing a polynomial in when a bit says so is linear in register and bit: two times cancel. -/
theorem xor_when_xor (x y poly : Crc7) (f g : Bool) :
    (if f ^^ g then x ^^^ y ^^^ poly else x ^^^ y) = (if f then x ^^^ poly else x) ^^^ (if g then y ^^^ poly else y) := by
  have hcancel : (x ^^^ poly) ^^^ (y ^^^ poly) = x ^^^ y := by
    rw [BitVec.xor_comm y, BitVec.xor_assoc, ← BitVec.xor_assoc poly, BitVec.xor_self, BitVec.zero_xor]
  match f, g with
  | false, false => rfl
  | false, true => exact BitVec.xor_assoc x y poly
  | true, false => exact (by ac_rfl : x ^^^ y ^^^ poly = x ^^^ poly ^^^ y)
  | true, true => exact hcancel.symm

/-- The feedback is linear, and so are the shift and the polynomial it lets in. -/
theorem crc7Bit_xor (c c' : Crc7) (b b' : Bool) : crc7Bit (c ^^^ c') (b ^^ b') = crc7Bit c b ^^^ crc7Bit c' b' := by
  have hfeedback : ((c ^^^ c').msb ^^ (b ^^ b')) = ((c.msb ^^ b) ^^ (c'.msb ^^ b')) := by
    simp [BitVec.msb_xor, Bool.xor_left_comm]
  simp only [crc7Bit, hfeedback, BitVec.shiftLeft_xor_distrib, xor_when_xor]

/-- The CRC is linear in the register and the byte (R122). -/
theorem crc7Byte_xor (c c' : Crc7) (b b' : Byte) : crc7Byte (c ^^^ c') (b ^^^ b') = crc7Byte c b ^^^ crc7Byte c' b' := by
  simp only [crc7Byte, bitsMsbFirst, List.map_cons, List.map_nil, List.foldl_cons, List.foldl_nil, BitVec.getLsbD_xor, crc7Bit_xor]

/-- A CRC register takes in a zero byte as the empty register takes in the register itself, shifted up to the top of a byte. -/
theorem crc7Byte_zero : ∀ c : Crc7, crc7Byte 0#7 (c ++ 0#1) = crc7Byte c 0#8 := by decide +kernel

/-- The lookup of R123: the CRC of the table index alone is the register after the byte. -/
theorem crc7_crcTableIndex (c : Crc7) (b : Byte) : crc7 [crcTableIndex c b] = crc7Byte c b := by
  calc crc7 [crcTableIndex c b]
    _ = crc7Byte (0#7 ^^^ 0#7) ((c ++ 0#1) ^^^ b) := rfl
    _ = crc7Byte c 0#8 ^^^ crc7Byte 0#7 b := by rw [crc7Byte_xor, crc7Byte_zero]
    _ = crc7Byte c b := by rw [← crc7Byte_xor, BitVec.xor_zero, BitVec.zero_xor]

/-! ### The table -/

/-- An entry is a 7-bit value (R122). -/
theorem crcTableEntry_lt (i : Byte) : (crcTableEntry i).toNat < 0x80 := by
  rw [crcTableEntry_eq_crc7, BitVec.toNat_setWidth_of_le (by decide)]
  exact (crc7 [i]).isLt

/-- The table is linear because the CRC it holds is (R122). -/
theorem crcTableEntry_xor (a b : Byte) : crcTableEntry (a ^^^ b) = crcTableEntry a ^^^ crcTableEntry b := by
  have hcrc : crc7 [a ^^^ b] = crc7 [a] ^^^ crc7 [b] := crc7Byte_xor 0#7 0#7 a b
  simp only [crcTableEntry_eq_crc7, hcrc, BitVec.setWidth_xor]

/-- Settles O28: an entry is a CRC, so it is below 0x80 and linear in its index; the register 0 leaves the index at the byte. -/
theorem tableEntriesAreCrc7AndLinear : Obligations.TableEntriesAreCrc7AndLinear := by
  unfold Obligations.TableEntriesAreCrc7AndLinear
  exact ⟨fun i => ⟨crcTableEntry_eq_crc7 i, crcTableEntry_lt i⟩, crcTableEntry_xor, fun _ => BitVec.zero_xor⟩

/-- Settles O29: building the table writes every entry and only the table. -/
theorem crcBuildFillsTheTable : Obligations.CrcBuildFillsTheTable := by
  unfold Obligations.CrcBuildFillsTheTable
  intro s
  obtain ⟨m, hm, -, hread⟩ := buildTable_spec s
  refine ⟨((s.setCrcTable m).setCrcTableValid true).answer 0x0000#16, ?_, fun i => ?_, rfl⟩
  · simp only [exec, execCrcBuild, hm]
    rfl
  · exact (hread i).trans (congrArg some (crcTableEntry_eq_crc7 i))

/-! ### CRC_EXTEND -/

/-- The table index as R123 writes it: the CRC shifted up by one place in a byte. -/
theorem crcTableIndex_eq (c : Crc7) (b : Byte) : crcTableIndex c b = (c.setWidth 8 <<< 1) ^^^ b := by
  have hshift : c ++ 0#1 = c.setWidth 8 <<< 1 := by
    refine BitVec.eq_of_toNat_eq ((BitVec.toNat_append c 0#1).trans ?_)
    simp only [BitVec.toNat_shiftLeft, BitVec.toNat_setWidth, BitVec.toNat_ofNat, Nat.zero_mod, Nat.or_zero, Nat.shiftLeft_eq]
    omega
  rw [crcTableIndex, hshift]

/-- CRC_EXTEND with a table answers the entry it reads (R123). -/
theorem exec_crcExtend_of_read {c : Crc7} {b v : Byte} {s : State} (hvalid : s.crcTableValid = true)
    (hread : s.tableRead (crcTableIndex c b) = some v) :
    exec (.crcExtend c b) s = .next (s.answer (responseWord .ok v)) := by
  simp [exec, execCrcExtend, hvalid, hread, respond]

/-- Settles O31: the three branches of the meaning, at the index of R123. -/
theorem crcExtendLooksTheTableUp : Obligations.CrcExtendLooksTheTableUp := by
  unfold Obligations.CrcExtendLooksTheTableUp
  intro crc b s
  rw [← crcTableIndex_eq]
  refine ⟨fun hvalid => ?_, fun v hvalid hread => ?_, fun hvalid hread => ?_⟩
  · simp only [exec, execCrcExtend, hvalid]
    rfl
  · rw [exec_crcExtend_of_read hvalid hread, responseWord_ok]
  · simp [exec, execCrcExtend, hvalid, hread]

/-- With a built table, the chain goes on from any register as CRC7 does (R124). -/
theorem extendChain_eq (bs : List Byte) (c : Crc7) (s : State) (hvalid : s.crcTableValid = true)
    (htable : ∀ i : Byte, s.tableRead i = some ((crc7 [i]).setWidth 8)) :
    ∃ t, extendChain bs c s = .next (bs.foldl crc7Byte c, t) := by
  induction bs generalizing c s with
  | nil => exact ⟨s, rfl⟩
  | cons b bs ih =>
    have hread : s.tableRead (crcTableIndex c b) = some ((crc7Byte c b).setWidth 8) := by
      rw [htable, crc7_crcTableIndex]
    have hissue := issue_of_next (decode_encode _) (exec_crcExtend_of_read hvalid hread)
    have hvalue : ((crc7Byte c b).setWidth 8).setWidth 7 = crc7Byte c b := by simp
    simp only [extendChain, hissue, andThen_next, valueField_responseWord, hvalue, List.foldl_cons]
    exact ih (crc7Byte c b) _ hvalid htable

/-- Settles O32: the chain is CRC7's own fold over the bytes, and the rule's example is computed. -/
theorem chainedCrcExtendComputesCrc7 : Obligations.ChainedCrcExtendComputesCrc7 := by
  unfold Obligations.ChainedCrcExtendComputesCrc7
  intro bytes s hvalid htable
  refine ⟨extendChain_eq bytes 0#7 s hvalid htable, fun hbytes => ?_⟩
  subst hbytes
  decide

end Sys2Proof.Machine
end

section
/-!
PROOFS. The traffic of one SEND_COMMAND (R140 to R150): that it follows the transport, the chip select it leaves, and its exchanges.
-/
namespace Sys2Proof.Machine

/-! ### The traffic of one command, without and with the ACMD flag (R140, R141) -/

section
variable {command : Byte} {idx : CommandIndex} {argument : Word32} {es : List LinkEvent} {st : Status} {r : Byte}

/-- One command leaves the card selected exactly when its index is in KEEP (R146, R147). -/
theorem PlainCommand.csAfter_eq (h : PlainCommand idx argument es r) (c : Bool) : csAfter c es = keepsSelected idx := by
  rw [(h.measure c).2, Bool.eq_iff_iff, decide_eq_true_iff, keepsSelected_iff]

/-- At most eight exchanges before the poll, ten polls, one to close (R150). -/
theorem PlainCommand.xferCount_le (h : PlainCommand idx argument es r) : xferCount es ≤ 19 := by
  obtain ⟨⟨p, -, hp, hcount⟩, -⟩ := h.measure false
  split at hcount <;> omega

/-- Without the ACMD flag the traffic is one command. -/
theorem CommandTraffic.plain (h : CommandTraffic command argument es st r) (hc : command.toNat < 0x80) :
    PlainCommand (command.setWidth 6) argument es r := by
  rw [CommandTraffic, if_pos hc] at h
  exact h.1

/-- With the ACMD flag the traffic is that of APP_CMD, and then that of the command unless APP_CMD's response stops it. -/
theorem CommandTraffic.prefixed (h : CommandTraffic command argument es st r) (hc : 0x80 ≤ command.toNat) :
    ∃ es₅₅ r₅₅, PlainCommand 55#6 0#32 es₅₅ r₅₅ ∧
      if 1 < r₅₅.toNat then es = es₅₅ else ∃ es', PlainCommand (command.setWidth 6) argument es' r ∧ es = es₅₅ ++ es' := by
  rw [CommandTraffic, if_neg (Nat.not_lt.2 hc)] at h
  obtain ⟨es₅₅, r₅₅, happ, hrest⟩ := h
  refine ⟨es₅₅, r₅₅, happ, ?_⟩
  split at hrest
  · next hstop => rw [if_pos hstop]; exact hrest.1
  · next hstop =>
    obtain ⟨es', hown, hes, -⟩ := hrest
    rw [if_neg hstop]
    exact ⟨es', hown, hes⟩

/-- SEND_COMMAND's traffic leaves the card selected as the index says, but for an ACMD of KEEP: APP_CMD may stop that one, and APP_CMD
releases the card. -/
theorem CommandTraffic.csAfter_eq (h : CommandTraffic command argument es st r)
    (hc : command.toNat < 0x80 ∨ keepsSelected (command.setWidth 6) = false) (c : Bool) :
    csAfter c es = keepsSelected (command.setWidth 6) := by
  rcases Nat.lt_or_ge command.toNat 0x80 with hplain | hacmd
  · exact (h.plain hplain).csAfter_eq c
  · obtain ⟨es₅₅, r₅₅, happ, hrest⟩ := h.prefixed hacmd
    split at hrest
    · rw [hrest, happ.csAfter_eq, hc.resolve_left (Nat.not_lt.2 hacmd)]
      rfl
    · obtain ⟨es', hown, rfl⟩ := hrest
      rw [csAfter_append, hown.csAfter_eq]

end

/-! ### SEND_COMMAND -/

/-- Settles O33: SEND_COMMAND answers after its body, whose traffic is the transport's. -/
theorem sendCommandFollowsTheTransport : Obligations.SendCommandFollowsTheTransport := by
  unfold Obligations.SendCommandFollowsTheTransport
  intro c a s
  obtain ⟨es, hrun, htraffic⟩ := sendCommand_run c a s
  exact ⟨es, _, _, _, rfl, hrun, htraffic⟩

/-- Every next state of SEND_COMMAND is the end of such traffic. -/
theorem exec_sendCommand_run {c : Byte} {a : Word32} {s t : State} (h : exec (.sendCommand c a) s = .next t) :
    ∃ es st r, HostRun s t es ∧ CommandTraffic c a es st r := by
  obtain ⟨es, st, r, u, hu, hrun, htraffic⟩ := sendCommandFollowsTheTransport c a s
  obtain rfl := Host.Outcome.next.inj (hu.symm.trans h)
  exact ⟨es, st, r, hrun.answered _, htraffic⟩

/-! ### The chip select after an SD command (R146, R147) -/

theorem cs_of_keeping (c : Byte) {a : Word32} {s t : State} (h : exec (.sendCommand c a) s = .next t)
    (hc : c.toNat < 0x80) (hk : keepsSelected (c.setWidth 6) = true) : t.cs = true := by
  obtain ⟨es, st, r, hrun, htraffic⟩ := exec_sendCommand_run h
  exact hrun.cs.trans ((htraffic.csAfter_eq (.inl hc) s.cs).trans hk)

theorem cs_of_closing (c : Byte) {a : Word32} {s t : State} (h : exec (.sendCommand c a) s = .next t)
    (hk : keepsSelected (c.setWidth 6) = false) : t.cs = false := by
  obtain ⟨es, st, r, hrun, htraffic⟩ := exec_sendCommand_run h
  exact hrun.cs.trans ((htraffic.csAfter_eq (.inr hk) s.cs).trans hk)

/-- Settles O35: each row's meaning is the SEND_COMMAND of its code (R80), and the code's index is in KEEP or not. -/
theorem dataPhaseCommandsKeepTheCardSelected : Obligations.DataPhaseCommandsKeepTheCardSelected := by
  unfold Obligations.DataPhaseCommandsKeepTheCardSelected
  intro i s t h
  refine ⟨fun hi => ?_, fun a hi => ?_, fun hi => ?_, fun n hi => ?_⟩
  · simp only [List.mem_cons, List.not_mem_nil, or_false] at hi
    rcases hi with rfl | rfl | rfl | rfl | rfl | rfl | rfl
    · exact cs_of_keeping 0x48#8 h (by decide) rfl
    · exact cs_of_keeping 0x49#8 h (by decide) rfl
    · exact cs_of_keeping 0x4A#8 h (by decide) rfl
    · exact cs_of_keeping 0x4D#8 h (by decide) rfl
    · exact cs_of_keeping 0x5B#8 h (by decide) rfl
    · exact cs_of_keeping 0x6A#8 h (by decide) rfl
    · exact cs_of_keeping 0x7A#8 h (by decide) rfl
  · subst hi
    exact cs_of_keeping 0x51#8 h (by decide) rfl
  · simp only [List.mem_cons, List.not_mem_nil, or_false] at hi
    rcases hi with rfl | rfl | rfl | rfl
    · exact cs_of_closing 0x40#8 h rfl
    · exact cs_of_closing 0x41#8 h rfl
    · exact cs_of_closing 0x77#8 h rfl
    · exact cs_of_closing 0xE9#8 h rfl
  · subst hi
    exact cs_of_closing 0x50#8 h rfl

/-! ### The exchanges of one SEND_COMMAND (R150) -/

/-- Settles O36: the exchanges of the one command, or of APP_CMD and of the command after it. -/
theorem exchangeCountsOfSendCommand : Obligations.ExchangeCountsOfSendCommand := by
  unfold Obligations.ExchangeCountsOfSendCommand
  intro c a s t hexec
  obtain ⟨es, st, r, hrun, htraffic⟩ := exec_sendCommand_run hexec
  refine ⟨es, hrun.history, ?_⟩
  rcases Nat.lt_or_ge c.toNat 0x80 with hplain | hacmd
  · have hown := htraffic.plain hplain
    have hle := hown.xferCount_le
    exact ⟨⟨fun _ => (hown.measure false).1, fun h => absurd hplain (Nat.not_lt.2 h)⟩, fun _ => hle, by omega⟩
  · have hflag : ¬ c.toNat < 0x80 := Nat.not_lt.2 hacmd
    obtain ⟨es₅₅, r₅₅, happ, hrest⟩ := htraffic.prefixed hacmd
    have happLe := happ.xferCount_le
    obtain ⟨⟨p₅₅, hpos₅₅, hten₅₅, hcount₅₅⟩, -⟩ := happ.measure false
    rw [if_neg (by decide)] at hcount₅₅
    split at hrest
    · next hstop =>
      subst hrest
      refine ⟨⟨fun h => absurd h hflag, fun _ => ?_⟩, fun h => absurd h hflag, by omega⟩
      exact ⟨es, r₅₅, p₅₅, List.prefix_rfl, happ, hpos₅₅, hten₅₅, hcount₅₅, by rw [if_pos hstop]⟩
    · next hstop =>
      obtain ⟨es', hown, rfl⟩ := hrest
      have hownLe := hown.xferCount_le
      obtain ⟨⟨p, hpos, hten, hcount⟩, -⟩ := hown.measure false
      refine ⟨⟨fun h => absurd h hflag, fun _ => ?_⟩, fun h => absurd h hflag, by rw [xferCount_append]; omega⟩
      refine ⟨es₅₅, r₅₅, p₅₅, List.prefix_append _ _, happ, hpos₅₅, hten₅₅, hcount₅₅, ?_⟩
      rw [if_neg hstop]
      exact ⟨p, hpos, hten, by rw [xferCount_append, hcount₅₅, hcount]⟩

end Sys2Proof.Machine
end

section
/-!
PROOFS. The token receiver and the error-token decoder (R190 to R197): the answers of their two instructions, said by arithmetic.
-/
namespace Sys2Proof.Machine

/-! ### WAIT_TOKEN -/

/-- A response with status TIMEOUT, as its two bytes (R75). -/
theorem responseWord_timeout (v : Byte) : responseWord .timeout v = 0x20#8 ++ v := rfl

/-- A token is answered with status OK, 0xFF with TIMEOUT (R190). -/
theorem responseWord_token (t : Byte) :
    responseWord (if t = 0xFF#8 then .timeout else .ok) t = (if t = 0xFF#8 then 0x20#8 else 0x00#8) ++ t := by
  split
  · exact responseWord_timeout t
  · exact responseWord_ok t

/-- Settles O38: WAIT_TOKEN is the bounded poll of the link with 0xFF, answered with the byte that ended it. -/
theorem waitTokenPollsForAToken : Obligations.WaitTokenPollsForAToken := by
  unfold Obligations.WaitTokenPollsForAToken
  intro s
  obtain ⟨polls, hends, hrun⟩ := pollLink_run (fun b => b != 0xFF#8) 99 s
  refine ⟨polls, _, _, ?_, hends, hrun⟩
  rw [← responseWord_token]
  rfl

/-! ### DECODE_ERROR_TOKEN -/

/-- The top three bits of a byte are zero exactly when it is below 0x20 (R194). -/
theorem isDataErrorToken_iff (k : Byte) : isDataErrorToken k = true ↔ k.toNat < 0x20 := by
  have hbyte : k.toNat < 256 := k.isLt
  rw [isDataErrorToken, beq_iff_eq, ← BitVec.toNat_inj, BitVec.extractLsb'_toNat, Nat.shiftRight_eq_div_pow]
  change k.toNat / 32 % 8 = 0 ↔ k.toNat < 32
  omega

/-- The mask 0x1E keeps bits 4 to 1 in place and clears the others. -/
theorem and_0x1E_eq (n : Nat) : n &&& 0x1E = n / 2 % 16 * 2 := by
  have hflags : (n &&& 0x1E) / 2 = n / 2 % 16 := by
    rw [Nat.and_div_two]
    exact Nat.and_two_pow_sub_one_eq_mod (n / 2) 4
  have hbit0 : (n &&& 0x1E) % 2 = 0 := by
    rw [← pow_one 2, Nat.and_mod_two_pow]
    exact Nat.and_zero _
  omega

/-- The flags by arithmetic (R195, R196). -/
theorem dataErrorFlags_eq (k : Byte) : dataErrorFlags k = BitVec.ofNat 8 (k.toNat / 2 % 16 * 2) := by
  rw [← and_0x1E_eq, BitVec.ofNat_and, BitVec.ofNat_toNat, BitVec.setWidth_eq, dataErrorFlags]

/-- Settles O39: both branches of the meaning respond at once; the classification and the flags are arithmetic on the byte. -/
theorem decodeErrorTokenClassifies : Obligations.DecodeErrorTokenClassifies := by
  unfold Obligations.DecodeErrorTokenClassifies
  intro k s
  simp only [exec, execDecodeErrorToken, isDataErrorToken_iff, dataErrorFlags_eq]
  split <;> rfl

end Sys2Proof.Machine
end

section
/-!
PROOFS. INITIALIZE (R210 to R225): the paths it can take, each with its link traffic, its answer and the card type it leaves. The
outcomes, the steps and the exchange bounds follow from the paths; the absent card fails the handshake they start with.
-/
namespace Sys2Proof.Machine

/-! ### The frame, and the pseudocode -/

/-- Settles O24: INITIALIZE's own work is link traffic and the card type. -/
theorem initializeFrame : Obligations.InitializeFrame := by
  unfold Obligations.InitializeFrame
  intro s t h
  obtain ⟨_, hrun⟩ := initializeCard_run 10 s
  rw [exec_initializeCard, Host.Outcome.next.injEq] at h
  subst h
  exact ⟨fun a => congrArg (·.read a.toNat) hrun.crcTable, hrun.crcTableValid, hrun.work, hrun.host⟩

theorem State.setSequencer_self {s : State} {q : Sequencer} (h : s.sequencer = q) : s.setSequencer q = s := by
  subst h
  rfl

/-- Settles O40: the sequencer ends in the pseudocode's reply with the state idle, and the pseudocode leaves an idle sequencer idle. -/
theorem sequencerRefinesThePseudocode : Obligations.SequencerRefinesThePseudocode := by
  unfold Obligations.SequencerRefinesThePseudocode
  intro s hidle
  obtain ⟨_, hrun⟩ := initializeCard_run 10 s
  have hkept : (initializeCard 10 s).2.sequencer = s.sequencer := hrun.sequencer
  rw [exec_initializeCard, State.setSequencer_self (s := respondReply _) (hkept.trans hidle)]

/-! ### The paths of INITIALIZE (R211) -/

/-- The traffic of the settle exchanges and the idle handshake (R212, R213), and the byte that ended the handshake. -/
inductive IdleTraffic : List LinkEvent → Byte → Prop
  | intro {settle : List Byte} {attempts : List (List LinkEvent × Byte)} {last : Byte} (hlen : settle.length = 10)
      (hends : PollEnds 16 (fun r => r == 0x01#8) (attempts.map Prod.snd) last)
      (hall : ∀ x ∈ attempts, PlainCommand 0#6 0#32 x.1 x.2) :
      IdleTraffic ([.desel] ++ settle.map (LinkEvent.xfer false 0xFF#8) ++ (attempts.map Prod.fst).flatten) last

/-- The traffic up to SEND_IF_COND's response (R214, R215), after a handshake that ended with 0x01. -/
inductive ProbeTraffic : List LinkEvent → Byte → Prop
  | intro {idle es₁₆ es₈ : List LinkEvent} {r₁₆ r₈ : Byte} (hidle : IdleTraffic idle 0x01#8)
      (h₁₆ : PlainCommand 16#6 512#32 es₁₆ r₁₆) (h₈ : PlainCommand 8#6 0x1AA#32 es₈ r₈) :
      ProbeTraffic (idle ++ es₁₆ ++ es₈) r₈

/-- The paths after a SEND_IF_COND answered `r₈` (R215 to R219): the link traffic, the response and the card type of each. -/
inductive CapabilityPath : Byte → List LinkEvent → ResponseWord → CardType → Prop
  | highCapacity {es : List LinkEvent} (htraffic : HighCapacityTraffic es) :
      CapabilityPath 0x01#8 es 0x0002#16 .highCapacity
  | standardCapacity {r₈ : Byte} {es₅₈ es : List LinkEvent} (hr₈ : r₈ ≠ 0x01#8) (h₅₈ : PlainCommand 58#6 0#32 es₅₈ 0x01#8)
      (htraffic : LegacyTraffic es) : CapabilityPath r₈ (es₅₈ ++ es) 0x0001#16 .standardCapacity
  | unknown {r₈ r₅₈ : Byte} {es₅₈ : List LinkEvent} (hr₈ : r₈ ≠ 0x01#8) (h₅₈ : PlainCommand 58#6 0#32 es₅₈ r₅₈)
      (hr₅₈ : r₅₈ ≠ 0x01#8) (d : Byte) : CapabilityPath r₈ (es₅₈ ++ [.xfer true 0xFF#8 d]) 0x0000#16 .unknown

/-- The paths through R211, likewise. -/
inductive InitializePath : List LinkEvent → ResponseWord → CardType → Prop
  | notDetected {es : List LinkEvent} {last : Byte} (hidle : IdleTraffic es last) (hlast : last ≠ 0x01#8) :
      InitializePath es 0x1000#16 .unknown
  | detected {probe es : List LinkEvent} {r₈ : Byte} {y : ResponseWord} {k : CardType} (hprobe : ProbeTraffic probe r₈)
      (hpath : CapabilityPath r₈ es y k) : InitializePath (probe ++ es) y k

/-! ### The chip select along the paths (R222) -/

/-- Traffic of at least one part, each of which leaves the chip select at `b` whatever it was, leaves it at `b`. -/
theorem csAfter_flatten {ess : List (List LinkEvent)} {b : Bool} (hne : ess ≠ [])
    (h : ∀ es ∈ ess, ∀ c, csAfter c es = b) (c : Bool) : csAfter c ess.flatten = b := by
  obtain ⟨init, es, rfl⟩ := (List.eq_nil_or_concat' ess).resolve_left hne
  simp [h es]

/-- The rounds of a loop of commands that close leave the card released. -/
theorem PollEnds.csAfter_rounds {α : Type} {limit : Nat} {stop : α → Bool} {rounds : List (List LinkEvent × α)} {last : α}
    (hends : PollEnds limit stop (rounds.map Prod.snd) last) (hall : ∀ x ∈ rounds, ∀ c, csAfter c x.1 = false) (c : Bool) :
    csAfter c (rounds.map Prod.fst).flatten = false := by
  refine csAfter_flatten (List.ne_nil_of_length_pos ?_) (List.forall_mem_map.2 hall) c
  simpa using Nat.lt_of_succ_le hends.pos

section
variable {es : List LinkEvent} {r : Byte}

theorem IdleTraffic.csAfter_eq (h : IdleTraffic es r) (c : Bool) : csAfter c es = false := by
  obtain ⟨-, hends, hall⟩ := h
  exact (csAfter_append ..).trans (hends.csAfter_rounds (fun x hx => (hall x hx).csAfter_eq) _)

theorem ProbeTraffic.csAfter_eq (h : ProbeTraffic es r) (c : Bool) : csAfter c es = true := by
  obtain ⟨-, -, h₈⟩ := h
  exact (csAfter_append ..).trans (h₈.csAfter_eq _)

theorem HighCapacityTraffic.csAfter_eq (h : HighCapacityTraffic es) (c : Bool) : csAfter c es = false := by
  obtain ⟨echo, rounds, last, d, -, hends, hall, rfl⟩ := h
  rw [csAfter_append, csAfter_append, hends.csAfter_rounds fun x hx => (hall x hx).csAfter_eq (.inr rfl)]
  rfl

theorem LegacyTraffic.csAfter_eq (h : LegacyTraffic es) (c : Bool) : csAfter c es = false := by
  obtain ⟨ocr, rounds, last, es₁₆, r₁₆, d, -, -, -, h₁₆, rfl⟩ := h
  rw [csAfter_append, csAfter_append, h₁₆.csAfter_eq]
  rfl

end

/-- The response, the card type and the chip select of each path (R222). -/
theorem InitializePath.outcome {es : List LinkEvent} {y : ResponseWord} {k : CardType} (h : InitializePath es y k) (c : Bool) :
    (y, k, csAfter c es) ∈
      [(0x1000#16, CardType.unknown, false), (0x0000#16, .unknown, true), (0x0001#16, .standardCapacity, false),
       (0x0002#16, .highCapacity, false)] := by
  cases h with
  | notDetected hidle _ => simp [hidle.csAfter_eq]
  | detected _ hpath =>
    cases hpath with
    | highCapacity htraffic => simp [htraffic.csAfter_eq]
    | standardCapacity _ _ htraffic => simp [htraffic.csAfter_eq]
    | unknown _ h₅₈ _ d => simp [h₅₈.csAfter_eq, csAfter, keepsSelected, keepSet]

/-! ### INITIALIZE takes one of the paths -/

section
variable {s : State}

theorem settleAndHandshake_traffic (s : State) :
    ∃ es, LinkRun s (idleHandshake (powerSettle 10 s)).2 es ∧ IdleTraffic es (idleHandshake (powerSettle 10 s)).1.value := by
  obtain ⟨settle, attempts, hlen, hends, hrun, hall⟩ := settleAndHandshake_run 10 s
  exact ⟨_, hrun, .intro hlen hends hall⟩

/-- HighCapacityInit and Ready, from the selected card that SEND_IF_COND leaves (R218, R219). -/
theorem highCapacityInit_traffic (hcs : s.cs = true) :
    ∃ es, TypingRun s (readyReply (highCapacityInit s)).2 es ∧ HighCapacityTraffic es := by
  obtain ⟨echo, hlen, hecho⟩ := dummies_run 4 s
  obtain ⟨rounds, hends, hloop, hall⟩ := commandLoop_run Config.initLoopLimit (by decide) 0xE9#8 Config.hcsArg
    (fun r => r.value == 0x00#8) (dummies 4 s)
  obtain ⟨d, hready⟩ := readyReply_run (highCapacityInit s)
  have hreleased : (highCapacityInit s).cs = false :=
    hloop.cs.trans (hends.csAfter_rounds (fun x hx => (hall x hx).csAfter_eq (.inr rfl)) _)
  rw [hcs] at hecho
  rw [hreleased] at hready
  exact ⟨_, ((hecho.trans hloop).typing.setCardType _).trans hready.typing, echo, rounds, _, d, hlen, hends, hall, rfl⟩

/-- LegacyInit and Ready, from the selected card that READ_OCR leaves (R217, R219). -/
theorem legacyInit_traffic (hcs : s.cs = true) :
    ∃ es, TypingRun s (readyReply (legacyInit s)).2 es ∧ LegacyTraffic es := by
  obtain ⟨ocr, hlen, hocr⟩ := dummies_run 4 s
  obtain ⟨rounds, hends, hloop, hall⟩ := plainCommandLoop_run (dummies 4 s) (limit := Config.initLoopLimit) (by decide)
    (command := 0x41#8) (by decide) 0#32 (fun r => r == 0x00#8)
  obtain ⟨es₁₆, r₁₆, hblock, h₁₆⟩ := setBlockLength_run
    (repeatWithin Config.initLoopLimit (sendCommand 0x41#8 0#32) (fun r => r.value == 0x00#8) (dummies 4 s)).2
  obtain ⟨d, hready⟩ := readyReply_run (legacyInit s)
  have hreleased : (legacyInit s).cs = false := hblock.cs.trans (h₁₆.csAfter_eq _)
  rw [hcs] at hocr
  rw [hreleased] at hready
  exact ⟨_, (((hocr.trans hloop).trans hblock).typing.setCardType _).trans hready.typing,
    ocr, rounds, _, es₁₆, r₁₆, d, hlen, hends, hall, h₁₆, rfl⟩

/-- NOT_DETECTED with VALUE 0x00, as one word (R75). -/
theorem responseWord_notDetected : responseWord .notDetected 0x00#8 = 0x1000#16 := by decide

/-- Ready answers OK with the code of the card type (R219). -/
theorem CapabilityPath.of_ready {r₈ : Byte} {es : List LinkEvent} {y : ResponseWord} {k : CardType}
    (h : CapabilityPath r₈ es y k) (hk : s.cardType = k) (hy : responseWord .ok k.value = y) :
    CapabilityPath r₈ es (responseWord (readyReply s).1.status (readyReply s).1.value) (readyReply s).2.cardType := by
  subst hk hy
  exact h

/-- The pseudocode of R210 takes one of the paths. -/
theorem initializeCard_path (s : State) :
    ∃ es, TypingRun s (initializeCard 10 s).2 es ∧
      InitializePath es (responseWord (initializeCard 10 s).1.status (initializeCard 10 s).1.value)
        (initializeCard 10 s).2.cardType := by
  obtain ⟨es, hstart, hidle⟩ := settleAndHandshake_traffic (s.setCardType .unknown)
  unfold initializeCard
  generalize idleHandshake (powerSettle 10 (s.setCardType .unknown)) = idle at *
  dsimp only
  split
  · next hlast =>
    have hunknown : idle.2.cardType = .unknown := hstart.cardType
    refine ⟨es, hstart.typing.of_setCardType, ?_⟩
    rw [hunknown, responseWord_notDetected]
    exact .notDetected hidle hlast
  · next hlast =>
    rw [not_not.1 hlast] at hidle
    obtain ⟨es₁₆, r₁₆, hblock, h₁₆⟩ := setBlockLength_run idle.2
    obtain ⟨es₈, hcond, h₈⟩ := probeIfCond_run (setBlockLength idle.2)
    have hprobe : ProbeTraffic (es ++ es₁₆ ++ es₈) _ := .intro hidle h₁₆ h₈
    have hprobed := (hstart.trans hblock).trans hcond
    generalize probeIfCond (setBlockLength idle.2) = r₈ at *
    have hselected : r₈.2.cs = true := hprobed.cs.trans (hprobe.csAfter_eq _)
    split
    · next hr₈ =>
      obtain ⟨tail, hinit, htail⟩ := highCapacityInit_traffic hselected
      rw [hr₈] at hprobe
      exact ⟨_, hprobed.typing.of_setCardType.trans hinit,
        .detected hprobe (CapabilityPath.of_ready (.highCapacity htail) rfl (by decide))⟩
    · next hr₈ =>
      obtain ⟨es₅₈, hocr, h₅₈⟩ := probeOcr_run r₈.2
      have hselected : (probeOcr r₈.2).2.cs = true := hocr.cs.trans (h₅₈.csAfter_eq _)
      split
      · next hr₅₈ =>
        obtain ⟨tail, hinit, htail⟩ := legacyInit_traffic hselected
        rw [hr₅₈] at h₅₈
        exact ⟨_, hprobed.typing.of_setCardType.trans (hocr.typing.trans hinit),
          .detected hprobe (CapabilityPath.of_ready (.standardCapacity hr₈ h₅₈ htail) rfl (by decide))⟩
      · next hr₅₈ =>
        obtain ⟨d, hready⟩ := readyReply_run (probeOcr r₈.2).2
        have hunknown : (probeOcr r₈.2).2.cardType = .unknown := (hprobed.trans hocr).cardType
        rw [hselected] at hready
        exact ⟨_, hprobed.typing.of_setCardType.trans (hocr.trans hready).typing,
          .detected hprobe (CapabilityPath.of_ready (.unknown hr₈ h₅₈ hr₅₈ d) hunknown (by decide))⟩

end

/-- INITIALIZE completes: it takes one of the paths, appends its response and leaves the sequencer idle. -/
theorem exec_initializeCard_path (s : State) :
    ∃ u es y, exec .initializeCard s = .next ((u.answer y).setSequencer .idle) ∧ TypingRun s u es ∧
      InitializePath es y u.cardType := by
  obtain ⟨es, hrun, hpath⟩ := initializeCard_path s
  exact ⟨_, es, _, exec_initializeCard s, hrun, hpath⟩

/-- Settles O41: each path has its outcome. -/
theorem initializeOutcomes : Obligations.InitializeOutcomes := by
  unfold Obligations.InitializeOutcomes
  intro s
  obtain ⟨u, es, y, hexec, hrun, hpath⟩ := exec_initializeCard_path s
  have hcs : u.cs = csAfter s.cs es := hrun.cs
  have hresponses : u.responses = s.responses := hrun.responses
  refine ⟨_, y, hexec, congrArg (· ++ [y]) hresponses, rfl, ?_⟩
  simp only [State.setSequencer_cardType, State.answer_cardType, State.setSequencer_cs, State.answer_cs, hcs]
  exact hpath.outcome s.cs
/-- Every next state of INITIALIZE is the end of one of the paths, answered. -/
theorem initializePath_of_exec {s t : State} (h : exec .initializeCard s = .next t) :
    ∃ es y, t.history = s.history ++ es ∧ t.responses = s.responses ++ [y] ∧ InitializePath es y t.cardType := by
  obtain ⟨u, es, y, hexec, hrun, hpath⟩ := exec_initializeCard_path s
  obtain rfl := Host.Outcome.next.inj (hexec.symm.trans h)
  exact ⟨es, y, hrun.history, congrArg (· ++ [y]) hrun.responses, hpath⟩

/-- Settles O43: the paths are these steps. -/
theorem initializeFollowsItsSteps : Obligations.InitializeFollowsItsSteps := by
  unfold Obligations.InitializeFollowsItsSteps
  intro s t hexec
  obtain ⟨es, y, hhistory, -, hpath⟩ := initializePath_of_exec hexec
  rw [hhistory]
  generalize t.cardType = k at *
  cases hpath with
  | notDetected hidle hlast =>
    obtain ⟨hlen, hends, hall⟩ := hidle
    refine ⟨_, _, _, [], hlen, hall, hends, by simp, ?_⟩
    rw [if_neg hlast]
    exact ⟨rfl, rfl⟩
  | @detected probe tail _ _ _ hprobe hpath =>
    obtain @⟨_, es₁₆, es₈, _, _, ⟨hlen, hends, hall⟩, h₁₆, h₈⟩ := hprobe
    refine ⟨_, _, _, es₁₆ ++ es₈ ++ tail, hlen, hall, hends, by simp only [List.append_assoc], ?_⟩
    rw [if_pos rfl]
    refine ⟨_, _, _, _, _, h₁₆, h₈, rfl, ?_⟩
    cases hpath with
    | highCapacity htraffic =>
      rw [if_pos rfl]
      exact ⟨htraffic, rfl⟩
    | standardCapacity hr₈ h₅₈ htraffic =>
      rw [if_neg hr₈]
      refine ⟨_, _, _, h₅₈, rfl, ?_⟩
      rw [if_pos rfl]
      exact ⟨htraffic, rfl⟩
    | unknown hr₈ h₅₈ hr₅₈ d =>
      rw [if_neg hr₈]
      refine ⟨_, _, _, h₅₈, rfl, ?_⟩
      rw [if_neg hr₅₈]
      exact ⟨⟨d, rfl⟩, rfl⟩

/-- Settles O42: of INITIALIZE's steps, the first attempt of the handshake follows the settle exchanges. -/
theorem initializeSettlesThenSendsGoIdle : Obligations.InitializeSettlesThenSendsGoIdle := by
  unfold Obligations.InitializeSettlesThenSendsGoIdle
  intro s t hexec
  obtain ⟨settle, attempts, last, rest, hlen, hall, hends, hhistory, -⟩ := initializeFollowsItsSteps s t hexec
  cases attempts with
  | nil => exact absurd hends.pos (by decide)
  | cons first others =>
    exact ⟨settle, first.1, (others.map Prod.fst).flatten ++ rest, first.2, hlen, hall first List.mem_cons_self,
      by simpa using hhistory⟩

/-! ### The exchanges of the steps (R225) -/

section
variable {idx : CommandIndex} {argument : Word32} {command : Byte} {es : List LinkEvent} {st : Status} {r : Byte}

/-- A command that closes: eight exchanges, one to ten polls, one more (R150). -/
theorem PlainCommand.xferCount_closing (h : PlainCommand idx argument es r) (hk : keepsSelected idx = false) :
    10 ≤ xferCount es ∧ xferCount es ≤ 19 := by
  obtain ⟨⟨p, hpos, hten, hcount⟩, -⟩ := h.measure false
  rw [if_neg (fun hmem => Bool.false_ne_true (hk.symm.trans ((keepsSelected_iff idx).2 hmem)))] at hcount
  omega

/-- A command of KEEP: eight exchanges and one to ten polls (R150). -/
theorem PlainCommand.xferCount_keeping (h : PlainCommand idx argument es r) (hk : keepsSelected idx = true) :
    9 ≤ xferCount es ∧ xferCount es ≤ 18 := by
  obtain ⟨⟨p, hpos, hten, hcount⟩, -⟩ := h.measure false
  rw [if_pos ((keepsSelected_iff idx).1 hk)] at hcount
  omega

/-- An ACMD that closes: APP_CMD, and the command itself unless APP_CMD stops it, which an answer of 0x00 excludes (R141). -/
theorem CommandTraffic.xferCount_acmd (h : CommandTraffic command argument es st r) (hc : 0x80 ≤ command.toNat)
    (hk : keepsSelected (command.setWidth 6) = false) :
    (10 ≤ xferCount es ∧ xferCount es ≤ 38) ∧ (r = 0x00#8 → 20 ≤ xferCount es) := by
  rw [CommandTraffic, if_neg (Nat.not_lt.2 hc)] at h
  obtain ⟨es₅₅, r₅₅, happ, hrest⟩ := h
  have happCount := happ.xferCount_closing rfl
  split at hrest
  · next hstop =>
    obtain ⟨rfl, rfl, -⟩ := hrest
    refine ⟨by omega, fun hr => ?_⟩
    rw [hr] at hstop
    exact absurd hstop (by decide)
  · obtain ⟨es', hown, rfl, -⟩ := hrest
    have hownCount := hown.xferCount_closing hk
    rw [xferCount_append]
    omega

end

section
variable {α : Type} {limit lo hi : Nat} {stop : α → Bool} {rounds : List (List LinkEvent × α)} {last : α}

/-- The exchanges of a loop, from those of its rounds. -/
theorem PollEnds.xferCount_rounds (hends : PollEnds limit stop (rounds.map Prod.snd) last)
    (hall : ∀ x ∈ rounds, lo ≤ xferCount x.1 ∧ xferCount x.1 ≤ hi) :
    rounds.length * lo ≤ xferCount (rounds.map Prod.fst).flatten ∧
      xferCount (rounds.map Prod.fst).flatten ≤ limit * hi := by
  have hleast := le_xferCount_flatten (List.forall_mem_map.2 fun x hx => (hall x hx).1)
  have hmost := xferCount_flatten_le (List.forall_mem_map.2 fun x hx => (hall x hx).2)
  have hwithin : (rounds.map Prod.fst).length * hi ≤ limit * hi := Nat.mul_le_mul_right hi (by simpa using hends.within)
  rw [List.length_map] at hleast
  exact ⟨hleast, hmost.trans hwithin⟩

/-- The round that gave the loop's result. -/
theorem PollEnds.exists_last_round (hends : PollEnds limit stop (rounds.map Prod.snd) last) :
    ∃ x ∈ rounds, x.2 = last :=
  List.mem_map.1 (List.mem_of_getLast? hends.ends)

end

theorem xferCount_le_flatten {es : List LinkEvent} {ess : List (List LinkEvent)} (h : es ∈ ess) :
    xferCount es ≤ xferCount ess.flatten := by
  obtain ⟨before, after, rfl⟩ := List.append_of_mem h
  simp only [List.flatten_append, List.flatten_cons, xferCount_append]
  omega

section
variable {es : List LinkEvent} {r : Byte}

theorem IdleTraffic.xferCount_bounds (h : IdleTraffic es r) :
    20 ≤ xferCount es ∧ xferCount es ≤ 314 ∧ (r ≠ 0x01#8 → 170 ≤ xferCount es) := by
  obtain @⟨_, attempts, _, hlen, hends, hall⟩ := h
  have hpos : 1 ≤ attempts.length := by simpa using hends.pos
  have hsixteen : r ≠ 0x01#8 → attempts.length = 16 := fun hr => by
    simpa using (hends.exhausted (by simpa using hr)).1
  have hcount := hends.xferCount_rounds fun x hx => (hall x hx).xferCount_closing rfl
  simp only [xferCount_append, xferCount_map_xfer, xferCount_desel, xferCount_nil, hlen]
  refine ⟨by omega, by omega, fun hr => ?_⟩
  rw [hsixteen hr] at hcount
  omega

theorem ProbeTraffic.xferCount_bounds (h : ProbeTraffic es r) : 39 ≤ xferCount es ∧ xferCount es ≤ 351 := by
  obtain ⟨hidle, h₁₆, h₈⟩ := h
  have hidleCount := hidle.xferCount_bounds
  have hblockCount := h₁₆.xferCount_closing rfl
  have hcondCount := h₈.xferCount_keeping rfl
  simp only [xferCount_append]
  omega

/-- The echo, one to 20000 rounds, of which the last is a whole ACMD41 when it ends the loop, and the final exchange. -/
theorem HighCapacityTraffic.xferCount_bounds (h : HighCapacityTraffic es) :
    25 ≤ xferCount es ∧ xferCount es ≤ 760005 := by
  obtain ⟨echo, rounds, last, d, hlen, hends, hall, rfl⟩ := h
  have hround := fun x hx => (hall x hx).xferCount_acmd (by decide) rfl
  have hcount := hends.xferCount_rounds fun x hx => (hround x hx).1
  have hleast : 20 ≤ xferCount (rounds.map Prod.fst).flatten := by
    rcases hends.stops with hstop | hlimit
    · obtain ⟨x, hx, rfl⟩ := hends.exists_last_round
      exact ((hround x hx).2 (by simpa using hstop)).trans (xferCount_le_flatten (List.mem_map_of_mem hx))
    · rw [List.length_map] at hlimit
      omega
  simp only [xferCount_append, xferCount_map_xfer, xferCount_xfer, xferCount_nil, hlen]
  omega

theorem LegacyTraffic.xferCount_bounds (h : LegacyTraffic es) : 25 ≤ xferCount es ∧ xferCount es ≤ 380024 := by
  obtain ⟨ocr, rounds, last, es₁₆, r₁₆, d, hlen, hends, hall, h₁₆, rfl⟩ := h
  have hpos := hends.pos
  have hcount := hends.xferCount_rounds fun x hx => (hall x hx).xferCount_closing rfl
  have hblockCount := h₁₆.xferCount_closing rfl
  simp only [xferCount_append, xferCount_map_xfer, xferCount_xfer, xferCount_nil, hlen]
  rw [List.length_map] at hpos
  omega

end

/-- Settles O44: the exchanges of each path are the sum of those of its parts. -/
theorem initializeExchangeBounds : Obligations.InitializeExchangeBounds := by
  unfold Obligations.InitializeExchangeBounds
  intro s t hexec
  obtain ⟨es, y, hhistory, hresponses, hpath⟩ := initializePath_of_exec hexec
  refine ⟨es, y, hhistory, hresponses, ?_⟩
  generalize t.cardType = k at hpath
  cases hpath with
  | notDetected hidle hlast =>
    obtain ⟨-, hmost, hleast⟩ := hidle.xferCount_bounds
    exact ⟨fun _ => ⟨hleast hlast, hmost⟩, nofun, nofun, nofun⟩
  | detected hprobe hpath =>
    have hprobeCount := hprobe.xferCount_bounds
    cases hpath with
    | highCapacity htraffic =>
      have hinitCount := htraffic.xferCount_bounds
      refine ⟨nofun, nofun, fun _ => ?_, nofun⟩
      simp only [xferCount_append]
      omega
    | standardCapacity _ h₅₈ htraffic =>
      have hocrCount := h₅₈.xferCount_keeping rfl
      have hinitCount := htraffic.xferCount_bounds
      refine ⟨nofun, nofun, nofun, fun _ => ?_⟩
      simp only [xferCount_append]
      omega
    | unknown _ h₅₈ _ d =>
      have hocrCount := h₅₈.xferCount_keeping rfl
      refine ⟨nofun, fun _ => ?_, nofun, nofun⟩
      simp only [xferCount_append, xferCount_xfer, xferCount_nil]
      omega

/-! ### The absent card (R224(a)) -/

@[simp] theorem receivedBytes_map_xfer (c : Bool) (o : Byte) (rs : List Byte) :
    receivedBytes (rs.map (LinkEvent.xfer c o)) = rs := by
  induction rs <;> simp_all

/-- Traffic within a stretch of answers of one value receives that value only (R53). -/
theorem LinkRun.received_eq {s t : State} {es : List LinkEvent} {n : Nat} {b : Byte} {later : List Byte}
    (h : LinkRun s t es) (hs : s.cardAnswers = List.replicate n b ++ later) (hn : xferCount es ≤ n) :
    ∀ c ∈ receivedBytes es, c = b := by
  have hreceived := h.received
  have hall : (receivedBytes es).length ≤ s.cardAnswers.length := by
    rw [receivedBytes_length, hs, List.length_append, List.length_replicate]
    omega
  rw [List.take_of_length_le hall, hs, List.take_append_of_le_length (by simpa using hn), List.take_replicate] at hreceived
  rw [hreceived]
  exact fun c hc => List.eq_of_mem_replicate hc

/-- A command that closes and receives only 0xFF polls ten times and ends with 0xFF. -/
theorem PlainCommand.unanswered {idx : CommandIndex} {argument : Word32} {es : List LinkEvent} {r : Byte}
    (h : PlainCommand idx argument es r) (hk : keepsSelected idx = false) (hff : ∀ b ∈ receivedBytes es, b = 0xFF#8) :
    r = 0xFF#8 ∧ xferCount es = 19 := by
  have hclosing := fun hmem => Bool.false_ne_true (hk.symm.trans ((keepsSelected_iff idx).2 hmem))
  obtain ⟨d₁, d₂, d₃, frame, received, polls, hframe, -, hlen, hends, rfl⟩ := h
  have hpolls : ∀ b ∈ polls, b = 0xFF#8 := fun b hb => hff b (by simp [hb])
  obtain rfl := hpolls r (List.mem_of_getLast? hends.ends)
  have hten := (hends.exhausted (by decide)).1
  have hsent : xferCount (List.zipWith (LinkEvent.xfer true) frame received) = 6 := by
    rw [xferCount, drivenBytes_zipWith_xfer true (by omega), hframe]
  rw [if_neg hclosing]
  exact ⟨rfl, by simp [hsent, hten]⟩

/-- A handshake that receives only 0xFF makes sixteen attempts of nineteen exchanges (R224(a)). -/
theorem IdleTraffic.unanswered {es : List LinkEvent} {r : Byte} (h : IdleTraffic es r)
    (hff : ∀ b ∈ receivedBytes es, b = 0xFF#8) : r = 0xFF#8 ∧ xferCount es = 314 := by
  obtain @⟨settle, attempts, _, hlen, hends, hall⟩ := h
  have hattempt : ∀ x ∈ attempts, x.2 = 0xFF#8 ∧ xferCount x.1 = 19 := fun x hx =>
    (hall x hx).unanswered rfl fun b hb => hff b <| List.Sublist.subset
      (((List.sublist_flatten_of_mem (List.mem_map_of_mem hx)).trans (List.sublist_append_right _ _)).filterMap _) hb
  obtain ⟨x, hx, rfl⟩ := hends.exists_last_round
  have hlast := (hattempt x hx).1
  have hsixteen : attempts.length = 16 := by simpa using (hends.exhausted (by simp [hlast])).1
  have hcount := hends.xferCount_rounds (lo := 19) (hi := 19) fun x hx => by simp [(hattempt x hx).2]
  refine ⟨hlast, ?_⟩
  simp only [xferCount_append, xferCount_map_xfer, xferCount_desel, xferCount_nil, hlen]
  omega

/-- NOT_DETECTED is answered right after the handshake (R213). -/
theorem exec_initializeCard_notDetected {s : State}
    (h : (idleHandshake (powerSettle 10 (s.setCardType .unknown))).1.value ≠ 0x01#8) :
    exec .initializeCard s =
      .next (((idleHandshake (powerSettle 10 (s.setCardType .unknown))).2.answer 0x1000#16).setSequencer .idle) := by
  rw [exec_initializeCard, initializeCard_notDetected h, ← responseWord_notDetected]
  rfl

/-- Settles O46: the handshake's traffic lies within the 314 answers, so no attempt is answered and INITIALIZE ends with it. -/
theorem absentCardIsNotDetected : Obligations.AbsentCardIsNotDetected := by
  unfold Obligations.AbsentCardIsNotDetected
  intro s later hanswers
  obtain ⟨es, hrun, hidle⟩ := settleAndHandshake_traffic (s.setCardType .unknown)
  obtain ⟨-, hmost, -⟩ := hidle.xferCount_bounds
  obtain ⟨hlast, hcount⟩ := hidle.unanswered (hrun.received_eq hanswers hmost)
  have hfailed : (idleHandshake (powerSettle 10 (s.setCardType .unknown))).1.value ≠ 0x01#8 := by simp [hlast]
  refine ⟨_, es, exec_initializeCard_notDetected hfailed, congrArg (· ++ [0x1000#16]) hrun.responses,
    hrun.cs.trans (hidle.csAfter_eq _), hrun.cardType, hrun.history, hcount, hrun.answers.trans ?_⟩
  rw [hcount, State.setCardType_cardAnswers, hanswers, List.drop_left' List.length_replicate]

end Sys2Proof.Machine
end

section
/-!
PROOFS. The host's sequences, from their parts: what the host reads in a response to a command and to WAIT_TOKEN, and the traffic of the
parts of a sequence with the chip select and the host state they leave.
-/
namespace Sys2Proof.Machine

/-! ### What the host reads in a response (R239) -/

section
variable (r : Byte)

theorem answeredOk_responseStatus : answeredOk (responseWord (responseStatus r) r) = decide (r.toNat < 0x80) := by
  rw [answeredOk, statusField_responseWord, responseStatus_eq, Bool.eq_iff_iff, decide_eq_true_iff]
  split
  · next hr => exact iff_of_false (by decide) (Nat.not_lt.2 hr)
  · next hr => exact iff_of_true rfl (Nat.lt_of_not_le hr)

/-- The byte 0x00 is a response, so it comes with status OK. -/
theorem accepted_responseStatus : accepted (responseWord (responseStatus r) r) = decide (r = 0x00#8) := by
  rw [accepted, answeredOk_responseStatus, valueField_responseWord, Bool.eq_iff_iff, Bool.and_eq_true, beq_iff_eq,
    decide_eq_true_iff, decide_eq_true_iff]
  exact and_iff_right_of_imp fun hr => hr ▸ by decide

theorem commandFailure_responseStatus :
    commandFailure (responseWord (responseStatus r) r) = if 0x80 ≤ r.toNat then .timeout else .protocolError := by
  rw [commandFailure, statusField_responseWord, responseStatus_eq]
  split <;> rfl

end

/-- The response to WAIT_TOKEN for the byte that ended its poll (R190). -/
def tokenResponse (token : Byte) : ResponseWord := responseWord (if token = 0xFF#8 then .timeout else .ok) token

@[simp] theorem valueField_tokenResponse (token : Byte) : valueField (tokenResponse token) = token :=
  valueField_responseWord _ _

theorem gotStartToken_tokenResponse (token : Byte) : gotStartToken (tokenResponse token) = decide (token = 0xFE#8) := by
  rw [gotStartToken, valueField_tokenResponse, Bool.eq_iff_iff, beq_iff_eq, decide_eq_true_iff]
  rfl

theorem statusField_tokenResponse (token : Byte) :
    statusField (tokenResponse token) = Status.timeout.code ↔ token = 0xFF#8 := by
  rw [tokenResponse, statusField_responseWord]
  split
  · next h => exact iff_of_true rfl h
  · next h => exact iff_of_false (by decide) h

/-! ### Host state during traffic -/

section
variable {s t u : State} {es fs : List LinkEvent}

theorem HostRun.setHost (h : HostRun s t es) (v : ClientState) : HostRun (s.setHost v) (t.setHost v) es :=
  { h with host := rfl }

/-- The host changes its own state after the traffic as it would before it. -/
theorem HostRun.onHost (h : HostRun s t es) (f : ClientState → ClientState) : HostRun (s.onHost f) (t.onHost f) es := by
  have hhost : t.host = s.host := h.host
  simp only [State.onHost, hhost]
  exact h.setHost _

theorem HostRun.cs_map_xfer {c : Bool} {o : Byte} {rs : List Byte} (h : HostRun s t (rs.map (LinkEvent.xfer c o))) :
    t.cs = s.cs :=
  h.cs.trans (csAfter_map_xfer ..)

/-- Every table entry is kept. -/
theorem HostRun.tableRead (h : HostRun s t es) (i : Byte) : t.tableRead i = s.tableRead i :=
  congrArg (fun m : Memory => m.read i.toNat) h.crcTable

end

/-! ### The parts of a sequence -/

/-- `CMD k, a` for a command byte without the ACMD flag: one command, its response, and the chip select of R146. -/
theorem plainCmd_run {k : Byte} (hk : k.toNat < 0x80) (a : Word32) (s : State) :
    ∃ es r t, cmd k a s = .next (responseWord (responseStatus r) r, t) ∧ HostRun s t es ∧
      PlainCommand (k.setWidth 6) a es r ∧ t.cs = keepsSelected (k.setWidth 6) := by
  obtain ⟨es, st, r, t, hcmd, hrun, htraffic⟩ := cmd_run (decode_encode (.sendCommand k a)) s
  have hcs := hrun.cs.trans (htraffic.csAfter_eq (.inl hk) _)
  rw [CommandTraffic, if_pos hk] at htraffic
  obtain ⟨hplain, hst⟩ := htraffic
  obtain rfl : st = responseStatus r := hst.trans (responseStatus_eq r).symm
  exact ⟨es, r, t, hcmd, hrun, hplain, hcs⟩

/-- `n` times `XCHG 0xFF` with the card selected. -/
theorem receive_selected_run (n : Nat) {s : State} (hcs : s.cs = true) :
    ∃ rs t, receive n s = .next (rs, t) ∧ rs.length = n ∧ HostRun s t (rs.map (LinkEvent.xfer true 0xFF#8)) ∧
      t.cs = true := by
  obtain ⟨rs, t, ht, hlen, hrun⟩ := receive_run (fun b => decode_encode (.exchange b)) n s
  have hcs' := hrun.cs_map_xfer.trans hcs
  rw [hcs] at hrun
  exact ⟨rs, t, ht, hlen, hrun, hcs'⟩

/-- `WTOK` with the card selected. -/
theorem waitToken_selected_run {s : State} (hcs : s.cs = true) :
    ∃ polls token t, issue .waitToken s = .next (tokenResponse token, t) ∧
      PollEnds 100 (fun b => b != 0xFF#8) polls token ∧ HostRun s t (polls.map (LinkEvent.xfer true 0xFF#8)) ∧
      t.cs = true := by
  obtain ⟨polls, token, t, ht, hends, hrun⟩ := waitToken_run (decode_encode .waitToken) s
  have hcs' := hrun.cs_map_xfer.trans hcs
  rw [hcs] at hrun
  exact ⟨polls, token, t, ht, hends, hrun, hcs'⟩

/-- `XCHG` over a list of bytes leaves the chip select. -/
theorem transmit_keeps_cs_run (bs : List Byte) (s : State) :
    ∃ es t, transmit bs s = .next t ∧ HostRun s t es ∧ drivenBytes es = bs ∧ t.cs = s.cs := by
  obtain ⟨rs, t, ht, hlen, hrun⟩ := exchangeEach_run (fun b => decode_encode (.exchange b)) bs s
  exact ⟨_, t, by simp [transmit, ht], hrun, drivenBytes_zipWith_xfer s.cs hlen, hrun.cs.trans (csAfter_zipWith_xfer ..)⟩

/-- `Close()`, whose words decode to their instructions. -/
theorem closing_run (s : State) : ∃ d t, close s = .next t ∧ HostRun s t [.desel, .xfer false 0xFF#8 d] :=
  close_run (decode_encode .deselect) (decode_encode (.exchange 0xFF#8)) s

/-- A rejected command's end, with the kind that its response byte gives. -/
theorem rejected_run (r : Byte) (s : State) :
    ∃ res rest t, closeAndFail (responseWord (responseStatus r) r) s = .next (res, t.onHost ClientState.invalidate) ∧
      HostRun s t rest ∧ RejectedTraffic r rest res := by
  obtain ⟨d, t, ht, hrun⟩ := closeAndFail_run (decode_encode (.exchange 0xFF#8)) (decode_encode .deselect)
    (responseWord (responseStatus r) r) s
  rw [commandFailure_responseStatus, valueField_responseWord] at ht
  exact ⟨_, _, t, ht, hrun, ⟨d, rfl⟩, rfl⟩

/-- The kind of failure for the byte that came in place of the start token (R248). -/
def tokenFailure (token : Byte) : ErrorKind :=
  if token = 0xFF#8 then .timeout else if token.toNat < 0x20 then .dataError (token &&& 0x1E#8) else .protocolError

/-- `TokenFail` (R248): no link event. -/
theorem tokenFail_run (token : Byte) (s : State) :
    ∃ t, tokenFail (tokenResponse token) s = .next (.fail (tokenFailure token) (.raw token), t) ∧
      HostRun (s.onHost ClientState.invalidate) t [] := by
  by_cases htimeout : token = 0xFF#8
  · refine ⟨_, ?_, HostRun.refl _⟩
    rw [tokenFail, if_pos ((statusField_tokenResponse token).2 htimeout), tokenFailure, if_pos htimeout, htimeout]
    rfl
  · obtain ⟨t, ht, hrun⟩ := decodeErrorToken_run (decode_encode (.decodeErrorToken token)) s
    refine ⟨_, ?_, hrun.onHost ClientState.invalidate⟩
    rw [tokenFail, if_neg (mt (statusField_tokenResponse token).1 htimeout), tokenFailure, if_neg htimeout,
      valueField_tokenResponse, ht, andThen_next]
    by_cases hdata : token.toNat < 0x20
    · simp only [isDataErrorToken_iff, hdata, if_true, statusField_responseWord, valueField_responseWord]
      rfl
    · simp only [isDataErrorToken_iff, hdata, if_false, statusField_responseWord]
      rfl

end Sys2Proof.Machine
end

section
/-!
PROOFS. The host's reads (R241 to R248): the two reads behind a start token are one sequence with two ends; ReadOCR and ReadCardStatus
have theirs.
-/
namespace Sys2Proof.Machine

/-! ### A read behind a start token (R242, R246) -/

/-- The sequence that ReadCSD, ReadCID and ReadBlock share, once the host has zeroed what it is to store. -/
def gatedRead (k : Byte) (a : Word32) (n : Nat) (store : List Byte → ClientState → ClientState) (s : State) :
    ClientOutcome :=
  andThen (cmd k a s) fun r =>
    andThen (issue .waitToken r.2) fun t =>
      if gotStartToken t.1 then
        andThen (receive n t.2) fun d =>
          andThen (receive 2 d.2) fun crc =>
            andThen (close crc.2) fun s' => succeed (s'.onHost (store d.1))
      else andThen (close t.2) (tokenFail t.1)

theorem readRegister_eq_gatedRead (which : TokenRegister) (s : State) :
    readRegister which s =
      gatedRead which.code 0#32 16 (fun bytes h => h.storeImage bytes which.image)
        (s.onHost (·.zeroImage which.image)) := rfl

/-- The host with this block buffer. -/
def ClientState.setBlk (h : ClientState) (bytes : List Byte) : ClientState := { h with blk := bytes }

theorem readBlockAt_eq_gatedRead (address : Word32) (s : State) :
    readBlockAt address s =
      gatedRead 0x51#8 address 512 (fun bytes h => h.setBlk bytes)
        (s.onHost (·.setBlk (List.replicate 512 0x00#8))) := rfl

/-- The two ends of that sequence: after a start token the bytes are stored, after any other byte the read fails with it. -/
inductive GatedRead (idx : CommandIndex) (a : Word32) (n : Nat) (store : List Byte → ClientState → ClientState) (s : State) :
    ClientResult × State → Prop
  | stored {es : List LinkEvent} {r c₁ c₂ d : Byte} {polls bytes : List Byte} {t : State}
      (hcommand : PlainCommand idx a es r) (hpolls : PollEnds 100 (fun b => b != 0xFF#8) polls 0xFE#8)
      (hlen : bytes.length = n)
      (hrun : HostRun (s.onHost (store bytes)) t
        (es ++ polls.map (LinkEvent.xfer true 0xFF#8) ++ (bytes.map (LinkEvent.xfer true 0xFF#8) ++
          [.xfer true 0xFF#8 c₁, .xfer true 0xFF#8 c₂, .desel, .xfer false 0xFF#8 d]))) :
      GatedRead idx a n store s (.ok, t)
  | failed {es : List LinkEvent} {r token d : Byte} {polls : List Byte} {t : State}
      (hcommand : PlainCommand idx a es r) (hpolls : PollEnds 100 (fun b => b != 0xFF#8) polls token)
      (htoken : token ≠ 0xFE#8)
      (hrun : HostRun (s.onHost ClientState.invalidate) t
        (es ++ polls.map (LinkEvent.xfer true 0xFF#8) ++ [.desel, .xfer false 0xFF#8 d])) :
      GatedRead idx a n store s (.fail (tokenFailure token) (.raw token), t)

/-- The sequence completes from every state, for a command that leaves the card selected. -/
theorem gatedRead_run {k : Byte} (hk : k.toNat < 0x80) (hkeep : keepsSelected (k.setWidth 6) = true) (a : Word32) (n : Nat)
    (store : List Byte → ClientState → ClientState) (s : State) :
    ∃ r, gatedRead k a n store s = .next r ∧ GatedRead (k.setWidth 6) a n store s r := by
  obtain ⟨es, b, t, hcmd, hrun, hcommand, hcs⟩ := plainCmd_run hk a s
  obtain ⟨polls, token, u, hwait, hpolls, hwaited, hcs⟩ := waitToken_selected_run (hcs.trans hkeep)
  have hrun := hrun.trans hwaited
  simp only [gatedRead, hcmd, hwait, andThen_next, gotStartToken_tokenResponse, decide_eq_true_eq]
  by_cases htoken : token = 0xFE#8
  · subst htoken
    obtain ⟨bytes, v, hbytes, hlen, hread, hcs⟩ := receive_selected_run n hcs
    obtain ⟨crc, w, hcrc, hcrcLen, hcrcRead, -⟩ := receive_selected_run 2 hcs
    obtain ⟨c₁, c₂, rfl⟩ := List.length_eq_two.1 hcrcLen
    obtain ⟨d, x, hclose, hclosed⟩ := closing_run w
    have hrest := (hread.trans hcrcRead).trans hclosed
    rw [List.append_assoc] at hrest
    simp only [if_true, hbytes, hcrc, hclose, andThen_next]
    exact ⟨_, rfl, .stored hcommand hpolls hlen ((hrun.trans hrest).onHost (store bytes))⟩
  · obtain ⟨d, v, hclose, hclosed⟩ := closing_run u
    obtain ⟨w, hfail, hfailed⟩ := tokenFail_run token v
    have hrest := ((hrun.trans hclosed).onHost ClientState.invalidate).trans hfailed
    rw [List.append_nil] at hrest
    simp only [htoken, if_false, hclose, hfail, andThen_next]
    exact ⟨_, rfl, .failed hcommand hpolls htoken hrest⟩

/-- A failed read has received the byte it fails with last before `Close()`. -/
theorem GatedRead.classified {idx : CommandIndex} {a : Word32} {n : Nat} {store : List Byte → ClientState → ClientState}
    {s t : State} {kind : ErrorKind} {detail : FailDetail} (h : GatedRead idx a n store s (.fail kind detail, t)) :
    ∃ (before : List LinkEvent) (b d : Byte),
      t.history = s.history ++ before ++ [.xfer true 0xFF#8 b, .desel, .xfer false 0xFF#8 d] ∧
      detail = .raw b ∧ b ≠ 0xFE#8 ∧ kind = tokenFailure b := by
  cases h with
  | @failed es r token d polls t hcommand hpolls htoken hrun =>
    refine ⟨es ++ polls.dropLast.map (LinkEvent.xfer true 0xFF#8), token, d, ?_, rfl, htoken, rfl⟩
    have hhistory : t.history = s.history ++ _ := hrun.history
    rw [hhistory, ← List.dropLast_append_getLast? token hpolls.ends]
    simp

/-! ### ReadCSD and ReadCID -/

/-- The index of the command of a register read (R163, R164). -/
def TokenRegister.index : TokenRegister → CommandIndex
  | .csd => 9#6
  | .cid => 10#6

theorem readRegister_run (which : TokenRegister) (s : State) :
    ∃ r, readRegister which s = .next r ∧
      GatedRead which.index 0#32 16 (fun bytes h => h.storeImage bytes which.image)
        (s.onHost (·.zeroImage which.image)) r := by
  rw [readRegister_eq_gatedRead]
  cases which with
  | csd => exact gatedRead_run (by decide) (by decide) _ _ _ _
  | cid => exact gatedRead_run (by decide) (by decide) _ _ _ _

section
variable (h : ClientState) (bytes : List Byte) (which : Image)

@[simp] theorem ClientState.image_storeImage : (h.storeImage bytes which).image which = bytes := by cases which <;> rfl

@[simp] theorem ClientState.valid_storeImage : (h.storeImage bytes which).valid which = true := by cases which <;> rfl

end

/-- Settles O54: the read that ends `Ok` is the end that stored the bytes. -/
theorem registerReadStoresTheSixteenBytes : Obligations.RegisterReadStoresTheSixteenBytes := by
  unfold Obligations.RegisterReadStoresTheSixteenBytes
  intro which s t hread
  obtain ⟨r, hr, hends⟩ := readRegister_run which s
  obtain rfl := Host.Outcome.next.inj (hr.symm.trans hread)
  cases hends with
  | @stored es r c₁ c₂ d polls bytes t hcommand hpolls hlen hrun =>
    have hhost : t.host = ClientState.storeImage _ bytes which.image := hrun.host
    have hhistory : t.history = s.history ++ _ := hrun.history
    rw [hhost, ClientState.image_storeImage, ClientState.valid_storeImage]
    refine ⟨es, r, polls, c₁, c₂, d, ?_, hpolls, ?_, hlen, rfl⟩
    · cases which <;> exact hcommand
    · rw [hhistory]
      simp only [List.append_assoc]

/-! ### ReadBlock -/

/-- The address form of the card type, as a number (R246). -/
theorem toNat_blockAddress {t : CardType} {n address : Word32} (h : blockAddress t n = .ok address) :
    address.toNat = if t = .highCapacity then n.toNat else n.toNat * 512 := by
  cases t with
  | highCapacity => cases h; rfl
  | unknown => cases h
  | standardCapacity =>
    rw [blockAddress] at h
    split at h
    · cases h
    · cases h
      rw [if_neg (by decide), BitVec.toNat_shiftLeft, Nat.shiftLeft_eq]
      omega

/-- The address form exists but for the two cases of R247. -/
theorem blockAddress_eq_ok {t : CardType} {n : Word32}
    (h : t = .highCapacity ∨ (t = .standardCapacity ∧ n.toNat < 2 ^ 23)) : ∃ address, blockAddress t n = .ok address := by
  rcases h with rfl | ⟨rfl, hn⟩
  · exact ⟨n, rfl⟩
  · exact ⟨n <<< 9, if_neg (Nat.not_le.2 hn)⟩

section
variable {n : Word32} {s : State}

theorem readBlock_refused {r : Refusal} (h : blockAddress s.host.cardType n = .error r) :
    readBlock n s = .refused r := by
  simp only [readBlock, h]

theorem readBlock_run {address : Word32} (h : blockAddress s.host.cardType n = .ok address) :
    ∃ r, readBlock n s = .next r ∧
      GatedRead 17#6 address 512 (fun bytes h => h.setBlk bytes) (s.onHost (·.setBlk (List.replicate 512 0x00#8))) r := by
  simp only [readBlock, h, readBlockAt_eq_gatedRead]
  exact gatedRead_run (by decide) (by decide) _ _ _ _

/-- A ReadBlock that is not refused has an address. -/
theorem readBlock_ends {r : ClientResult × State} (h : readBlock n s = .next r) :
    ∃ address, blockAddress s.host.cardType n = .ok address ∧
      GatedRead 17#6 address 512 (fun bytes h => h.setBlk bytes) (s.onHost (·.setBlk (List.replicate 512 0x00#8))) r := by
  cases ha : blockAddress s.host.cardType n with
  | error e => rw [readBlock_refused ha] at h; cases h
  | ok address =>
    obtain ⟨r', hr, hends⟩ := readBlock_run ha
    obtain rfl := Host.Outcome.next.inj (hr.symm.trans h)
    exact ⟨address, rfl, hends⟩

end

/-- Either end of the sequence starts with its command. -/
theorem GatedRead.starts {idx : CommandIndex} {a : Word32} {n : Nat} {store : List Byte → ClientState → ClientState}
    {s : State} {r : ClientResult × State} (h : GatedRead idx a n store s r) :
    ∃ es rest b, PlainCommand idx a es b ∧ r.2.history = s.history ++ es ++ rest := by
  cases h with
  | stored hcommand _ _ hrun | failed hcommand _ _ hrun =>
    exact ⟨_, _, _, hcommand, hrun.history.trans (by simp only [List.append_assoc]; rfl)⟩

/-- Settles O51: the address form is refused in the two cases of R247, and its number is that of R246 in the others. -/
theorem readBlockAddressesByCapacity : Obligations.ReadBlockAddressesByCapacity := by
  unfold Obligations.ReadBlockAddressesByCapacity
  intro n s
  refine ⟨fun htype => readBlock_refused (by rw [htype]; rfl), fun htype hn => readBlock_refused ?_, fun htype => ?_⟩
  · rw [htype]
    exact if_pos hn
  · obtain ⟨address, haddress⟩ := blockAddress_eq_ok htype
    obtain ⟨⟨res, t⟩, hr, hends⟩ := readBlock_run haddress
    obtain ⟨es, rest, b, hcommand, hhistory⟩ := hends.starts
    exact ⟨res, t, es, rest, b, address, hr, hcommand, hhistory, toNat_blockAddress haddress⟩

/-- Settles O60: the two ends of the sequence, at the address of the card type. -/
theorem readBlockStoresTheBlock : Obligations.ReadBlockStoresTheBlock := by
  unfold Obligations.ReadBlockStoresTheBlock
  intro n s t res hread
  obtain ⟨address, haddress, hends⟩ := readBlock_ends hread
  cases hends with
  | @stored es r c₁ c₂ d polls bytes t hcommand hpolls hlen hrun =>
    have hblk : t.host.blk = bytes := congrArg ClientState.blk hrun.host
    have hhistory : t.history = s.history ++ _ := hrun.history
    refine ⟨address, es, _, r, 0xFE#8, polls, toNat_blockAddress haddress, hcommand, hpolls,
      hhistory.trans (by simp only [List.append_assoc]; rfl), hblk ▸ hlen, ?_⟩
    rw [if_pos rfl, hblk]
    exact ⟨rfl, c₁, c₂, d, rfl⟩
  | @failed es r token d polls t hcommand hpolls htoken hrun =>
    have hblk : t.host.blk = List.replicate 512 0x00#8 := congrArg ClientState.blk hrun.host
    have hhistory : t.history = s.history ++ _ := hrun.history
    refine ⟨address, es, _, r, token, polls, toNat_blockAddress haddress, hcommand, hpolls,
      hhistory.trans (by simp only [List.append_assoc]; rfl), hblk ▸ List.length_replicate, ?_⟩
    rw [if_neg htoken]
    exact ⟨hblk, ⟨d, rfl⟩, _, _, rfl⟩

/-- Settles O50: a failed read behind a start token is the sequence's other end. -/
theorem tokenFailureIsClassified : Obligations.TokenFailureIsClassified := by
  unfold Obligations.TokenFailureIsClassified
  intro op s t kind detail hop hfail
  rcases hop with ⟨which, rfl⟩ | ⟨n, rfl⟩
  · obtain ⟨r, hr, hends⟩ := readRegister_run which s
    obtain rfl := Host.Outcome.next.inj (hr.symm.trans hfail)
    exact hends.classified
  · obtain ⟨address, -, hends⟩ := readBlock_ends hfail
    exact hends.classified

/-! ### ReadOCR -/

/-- READ_OCR succeeds for the host when it answers 0x00 or 0x01 (R241). -/
theorem readOcr_rejects (r : Byte) :
    (!answeredOk (responseWord (responseStatus r) r) || decide (0x01#8 < valueField (responseWord (responseStatus r) r))) =
      decide (1 < r.toNat) := by
  rw [answeredOk_responseStatus, valueField_responseWord, Bool.eq_iff_iff]
  simp only [Bool.or_eq_true, Bool.not_eq_true', decide_eq_false_iff_not, decide_eq_true_eq, BitVec.lt_def]
  change ¬ r.toNat < 128 ∨ 1 < r.toNat ↔ 1 < r.toNat
  omega

/-- Settles O48: the response decides which end ReadOCR takes. -/
theorem readOcrStoresTheFourBytes : Obligations.ReadOcrStoresTheFourBytes := by
  unfold Obligations.ReadOcrStoresTheFourBytes
  intro s t res hread
  obtain ⟨es, r, u, hcmd, hrun, hcommand, hcs⟩ :=
    plainCmd_run (k := 0x7A#8) (by decide) 0#32 (s.onHost (·.zeroImage .ocr))
  simp only [clientOp, readOcr, hcmd, andThen_next, readOcr_rejects, decide_eq_true_eq] at hread
  by_cases hr : r.toNat ≤ 1
  · obtain ⟨bytes, v, hbytes, hlen, hreceived, -⟩ := receive_selected_run 4 (hcs.trans (by decide))
    obtain ⟨d, w, hclose, hclosed⟩ := closing_run v
    have hhistory : w.history = s.history ++ _ := ((hrun.trans hreceived).trans hclosed).history
    simp only [Nat.not_lt.2 hr, if_false, hbytes, hclose, andThen_next] at hread
    obtain ⟨rfl, rfl⟩ := Prod.mk.inj (Host.Outcome.next.inj hread)
    refine ⟨es, r, d, hcommand, ?_⟩
    rw [if_pos hr]
    exact ⟨rfl, hlen, rfl, hhistory.trans (by simp only [List.append_assoc]; rfl)⟩
  · obtain ⟨_, _, v, hfail, hclosed, ⟨d, rfl⟩, rfl⟩ := rejected_run r u
    have hhistory : v.history = s.history ++ _ := (hrun.trans hclosed).history
    simp only [Nat.lt_of_not_le hr, if_true, hfail] at hread
    obtain ⟨rfl, rfl⟩ := Prod.mk.inj (Host.Outcome.next.inj hread)
    refine ⟨es, r, d, hcommand, ?_⟩
    rw [if_neg hr]
    exact ⟨rfl, hhistory.trans (List.append_assoc ..).symm⟩

/-! ### ReadCardStatus -/

/-- The two ends of ReadCardStatus (R244). -/
inductive StatusRead (s : State) : ClientResult × State → Prop
  | stored {es : List LinkEvent} {r b d : Byte} {t : State} (hcommand : PlainCommand 13#6 0#32 es r) (hr : r.toNat < 0x80)
      (hrun : HostRun (s.onHost (·.storeImage [r, b] .stat)) t
        (es ++ [.xfer true 0xFF#8 b, .desel, .xfer false 0xFF#8 d])) : StatusRead s (.ok, t)
  | failed {es : List LinkEvent} {r d : Byte} {t : State} (hcommand : PlainCommand 13#6 0#32 es r) (hr : ¬ r.toNat < 0x80)
      (hrun : HostRun (s.onHost fun h => (h.zeroImage .stat).invalidate) t
        (es ++ [.desel, .xfer false 0xFF#8 d])) : StatusRead s (.fail .timeout (.raw r), t)

/-- ReadCardStatus completes from every state. -/
theorem readCardStatus_run (s : State) : ∃ r, readCardStatus s = .next r ∧ StatusRead s r := by
  obtain ⟨es, r, u, hcmd, hrun, hcommand, hcs⟩ :=
    plainCmd_run (k := 0x4D#8) (by decide) 0#32 (s.onHost (·.zeroImage .stat))
  simp only [readCardStatus, hcmd, andThen_next, answeredOk_responseStatus, decide_eq_true_eq, valueField_responseWord]
  by_cases hr : r.toNat < 0x80
  · obtain ⟨bytes, v, hbytes, hlen, hreceived, -⟩ := receive_selected_run 1 (hcs.trans (by decide))
    obtain ⟨b, rfl⟩ := List.length_eq_one_iff.1 hlen
    obtain ⟨d, w, hclose, hclosed⟩ := closing_run v
    simp only [hr, if_true, hbytes, hclose, andThen_next]
    exact ⟨_, rfl, .stored hcommand hr ((hrun.trans (hreceived.trans hclosed)).onHost (·.storeImage [r, b] .stat))⟩
  · obtain ⟨d, v, hclose, hclosed⟩ := closing_run u
    simp only [hr, if_false, hclose, andThen_next]
    exact ⟨_, rfl, .failed hcommand hr ((hrun.trans hclosed).onHost ClientState.invalidate)⟩

/-- Settles O49: the two ends of ReadCardStatus. -/
theorem readCardStatusStoresTheTwoBytes : Obligations.ReadCardStatusStoresTheTwoBytes := by
  unfold Obligations.ReadCardStatusStoresTheTwoBytes
  intro s t res hread
  obtain ⟨q, hq, hends⟩ := readCardStatus_run s
  obtain rfl := Host.Outcome.next.inj (hq.symm.trans hread)
  cases hends with
  | @stored es r b d t hcommand hr hrun =>
    refine ⟨es, r, d, hcommand, ?_⟩
    rw [if_pos hr]
    exact ⟨b, rfl, congrArg ClientState.stat hrun.host, congrArg ClientState.statV hrun.host,
      hrun.history.trans (List.append_assoc ..).symm⟩
  | @failed es r d t hcommand hr hrun =>
    refine ⟨es, r, d, hcommand, ?_⟩
    rw [if_neg hr]
    exact ⟨rfl, hrun.history.trans (List.append_assoc ..).symm⟩

/-! ### Reads of host state -/

/-- Settles O52: both reads look at the valid bit first. -/
theorem invalidImagesFault : Obligations.InvalidImagesFault := by
  unfold Obligations.InvalidImagesFault
  refine fun s => ⟨fun _ => rfl, fun hinvalid => ?_, fun s₀ s₁ hvalid hstat => ?_⟩
  · simp [clientOp, queryLocked, hinvalid]
  · simp [clientOp, queryLocked, hvalid, hstat, lockedFlag]

end Sys2Proof.Machine
end

section
/-!
PROOFS. The host's writes (R250 to R261): a command that the card accepts or not, the bytes driven after it, and the end that the busy
polls give.
-/
namespace Sys2Proof.Machine

/-! ### A write behind a command (R250, R257, R261) -/

/-- A data-phase command and the write that follows when the card accepts it: the write's own traffic and end, or the rejection. -/
theorem guardedWrite_run {k : Byte} (hk : k.toNat < 0x80) (hkeep : keepsSelected (k.setWidth 6) = true) {a : Word32} {s : State}
    {write : State → ClientOutcome} {Q : List LinkEvent → ClientResult → State → Prop}
    (hwrite : ∀ u es, HostRun s u es → u.cs = true →
      ∃ rest res t, write u = .next (res, t) ∧ t.history = u.history ++ rest ∧ Q rest res t) :
    ∃ res t es rest r,
      (andThen (cmd k a s) fun r => if accepted r.1 then write r.2 else closeAndFail r.1 r.2) = .next (res, t) ∧
      PlainCommand (k.setWidth 6) a es r ∧ t.history = s.history ++ es ++ rest ∧
      if r = 0x00#8 then Q rest res t else RejectedTraffic r rest res := by
  obtain ⟨es, r, u, hcmd, hrun, hcommand, hcs⟩ := plainCmd_run hk a s
  have hhistory : u.history = s.history ++ es := hrun.history
  simp only [hcmd, andThen_next, accepted_responseStatus, decide_eq_true_eq]
  by_cases hr : r = 0x00#8
  · obtain ⟨rest, res, t, ht, hrest, hQ⟩ := hwrite u es hrun (hcs.trans hkeep)
    rw [if_pos hr]
    exact ⟨res, t, es, rest, r, ht, hcommand, hhistory ▸ hrest, (if_pos hr).symm ▸ hQ⟩
  · obtain ⟨res, rest, t, ht, hclosed, hrejected⟩ := rejected_run r u
    have hrest : t.history = u.history ++ rest := hclosed.history
    rw [if_neg hr]
    exact ⟨res, _, es, rest, r, ht, hcommand, hhistory ▸ hrest, (if_neg hr).symm ▸ hrejected⟩

/-- Bytes driven to the selected card, then the end that the busy polls give. -/
theorem transmitThenBusy_run (bs : List Byte) (after : ClientState → ClientState) {s : State} (hcs : s.cs = true) :
    ∃ sent busy res t, andThen (transmit bs s) (busyPollAndClose after) = .next (res, t) ∧
      HostRun (s.onHost (if res = .ok then after else fun h => (after h).invalidate)) t (sent ++ busy) ∧
      drivenBytes sent = bs ∧ BusyTraffic busy res := by
  obtain ⟨sent, t, ht, hsent, hdriven, hcs'⟩ := transmit_keeps_cs_run bs s
  obtain ⟨busy, res, u, _, hend, hbusy, htraffic, rfl⟩ := busyPollAndClose_run (decode_encode (.exchange 0xFF#8))
    (decode_encode .deselect) after t (hcs'.trans hcs)
  refine ⟨sent, busy, res, _, ?_, (hsent.trans hbusy).onHost _, hdriven, htraffic⟩
  rw [ht, andThen_next, hend]

/-! ### ModifyPassword -/

section
variable {mask : Byte} {pw : List Byte} {n : Nat}

/-- The payload is always one block (R258). -/
theorem length_passwordPayload (hpw : pw.length = 16) (hn : n ≤ 16) : (passwordPayload mask pw n).length = 512 := by
  simp only [passwordPayload, List.length_append, List.length_cons, List.length_nil, List.length_take, List.length_replicate,
    hpw, Config.blockLen]
  omega

theorem take_two_passwordPayload : (passwordPayload mask pw n).take 2 = [mask &&& 0x07#8, BitVec.ofNat 8 n] := rfl

theorem drop_two_passwordPayload :
    (passwordPayload mask pw n).drop 2 = pw.take n ++ List.replicate (510 - n) 0xFF#8 := rfl

/-- The password bytes, and after them the filler. -/
theorem parts_passwordPayload (hpw : pw.length = 16) (hn : n ≤ 16) :
    ((passwordPayload mask pw n).drop 2).take n = pw.take n ∧
      (passwordPayload mask pw n).drop (2 + n) = List.replicate (510 - n) 0xFF#8 := by
  have hlen : (pw.take n).length = n := List.length_take_of_le (hpw.symm ▸ hn)
  rw [← List.drop_drop, drop_two_passwordPayload]
  exact ⟨List.take_left' hlen, List.drop_left' hlen⟩

end

/-- Settles O55: the write behind LOCK_UNLOCK drives the payload of the password that the host has loaded. -/
theorem modifyPasswordDrivesTheWholePayload : Obligations.ModifyPasswordDrivesTheWholePayload := by
  unfold Obligations.ModifyPasswordDrivesTheWholePayload
  intro bytes length mask s
  refine guardedWrite_run (k := 0x6A#8) (by decide) (by decide) (a := 0#32) (s := s.onHost (·.loadPassword bytes length))
    (write := fun u => andThen (transmit
      ([Config.startToken] ++ passwordPayload mask u.host.pw u.host.pwLen ++ [Config.fill, Config.fill]) u)
      (busyPollAndClose id)) fun u es hrun hcs => ?_
  have hhost : u.host = s.host.loadPassword bytes length := hrun.host
  have hpw : u.host.pw = bytes.toList := congrArg ClientState.pw hhost
  have hlen : u.host.pwLen = length.val := congrArg ClientState.pwLen hhost
  obtain ⟨sent, busy, res, t, ht, hsent, hdriven, hbusy⟩ := transmitThenBusy_run
    ([Config.startToken] ++ passwordPayload mask u.host.pw u.host.pwLen ++ [Config.fill, Config.fill]) id hcs
  rw [hpw, hlen] at hdriven
  have hbytes : bytes.toList.length = 16 := bytes.length_toList
  have hlength : length.val ≤ 16 := Nat.le_of_lt_succ length.isLt
  obtain ⟨hpassword, hfiller⟩ := parts_passwordPayload (mask := mask) hbytes hlength
  exact ⟨_, res, t, ht, hsent.history, _, sent, busy, length_passwordPayload hbytes hlength, take_two_passwordPayload,
    hpassword, hfiller, rfl, hdriven, hbusy⟩

/-! ### ForceErase -/

/-- The write of ForceErase: the start token, the erase mask, and `Close()`. -/
theorem driveEraseMask_run (s : State) :
    ∃ rest res t, (andThen (transmit [Config.startToken, eraseMask] s) fun u => andThen (close u) succeed) = .next (res, t) ∧
      t.history = s.history ++ rest ∧ res = .ok ∧ drivenBytes rest = [0xFE#8, 0x08#8, 0xFF#8] := by
  obtain ⟨sent, u, hu, hsent, hdriven, -⟩ := transmit_keeps_cs_run [Config.startToken, eraseMask] s
  obtain ⟨d, t, ht, hclosed⟩ := closing_run u
  refine ⟨_, .ok, t, by simp only [hu, ht, andThen_next, succeed], (hsent.trans hclosed).history, rfl, ?_⟩
  rw [drivenBytes_append, hdriven]
  rfl

/-- ForceErase completes from every state: the two commands, and after an accepted LOCK_UNLOCK two bytes and `Close()`. -/
theorem forceErase_run (s : State) :
    ∃ res t es₁ es₂ rest r₁ r₂, forceErase s = .next (res, t) ∧ PlainCommand 16#6 1#32 es₁ r₁ ∧
      PlainCommand 42#6 0#32 es₂ r₂ ∧ t.history = s.history ++ es₁ ++ es₂ ++ rest ∧
      if r₂ = 0x00#8 then res = .ok ∧ drivenBytes rest = [0xFE#8, 0x08#8, 0xFF#8] else RejectedTraffic r₂ rest res := by
  obtain ⟨es₁, r₁, u, hcmd, hrun, hcommand, -⟩ := plainCmd_run (k := 0x50#8) (by decide) 1#32 s
  have hhistory : u.history = s.history ++ es₁ := hrun.history
  obtain ⟨res, t, es₂, rest, r₂, ht, hcommand₂, hrest, hend⟩ := guardedWrite_run (k := 0x6A#8) (by decide) (by decide)
    (a := 0#32) (s := u) (Q := fun rest res _ => res = .ok ∧ drivenBytes rest = [0xFE#8, 0x08#8, 0xFF#8])
    fun v _ _ _ => driveEraseMask_run v
  refine ⟨res, t, es₁, es₂, rest, r₁, r₂, ?_, hcommand, hcommand₂, hhistory ▸ hrest, hend⟩
  simp only [forceErase, hcmd, andThen_next]
  exact ht

/-- Settles O56: a rejection drives the closing dummy only, and fails. -/
theorem forceEraseDrivesOneMaskByte : Obligations.ForceEraseDrivesOneMaskByte := by
  unfold Obligations.ForceEraseDrivesOneMaskByte
  intro s t res herase
  obtain ⟨_, _, es₁, es₂, rest, r₁, r₂, ht, hcommand₁, hcommand₂, hhistory, hend⟩ := forceErase_run s
  obtain ⟨rfl, rfl⟩ := Prod.mk.inj (Host.Outcome.next.inj (ht.symm.trans herase))
  refine ⟨es₁, es₂, rest, r₁, r₂, hcommand₁, hcommand₂, hhistory, ?_⟩
  by_cases hr : r₂ = 0x00#8
  · rw [if_pos hr] at hend ⊢
    exact ⟨hend.2, iff_of_true hend.1 hr⟩
  · rw [if_neg hr] at hend ⊢
    obtain ⟨⟨d, rfl⟩, rfl⟩ := hend
    exact ⟨rfl, iff_of_false nofun hr⟩

/-! ### SetTemporaryLock -/

/-- The CRC on the wire (R125): shifted up by one place, with a stop bit of 1. -/
theorem crcWireByte_eq (crc : Crc7) : crcWireByte crc = crc.setWidth 8 <<< 1 ||| 1#8 := by
  revert crc
  decide

section
variable {locked : Bool} {c : List Byte}

theorem take_lockedCsd : (lockedCsd locked c).take 14 = c.take 14 := by
  rw [lockedCsd, List.take_modify, List.modify_eq_self]
  exact List.length_take_le ..

theorem getD_lockedCsd (hc : c.length = 16) :
    (lockedCsd locked c).getD 14 0x00#8 = if locked then c.getD 14 0x00#8 ||| 0x10#8 else c.getD 14 0x00#8 &&& 0xEF#8 := by
  simp [lockedCsd, hc, withLockBit]

end

/-- The write phase of SetTemporaryLock, with the table built: the CSD bytes, their CRC, and the end that the busy polls give. -/
theorem writeCsd_run {s : State} (hcs : s.cs = true) (hvalid : s.crcTableValid = true)
    (htable : ∀ i : Byte, s.tableRead i = some ((crc7 [i]).setWidth 8)) :
    ∃ sent busy res t, writeCsd s = .next (res, t) ∧ t.history = s.history ++ (sent ++ busy) ∧
      drivenBytes sent = [0xFE#8] ++ s.host.csd.take 15 ++
        [(crc7 (s.host.csd.take 15)).setWidth 8 <<< 1 ||| 1#8, 0xFF#8, 0xFF#8] ∧
      BusyTraffic busy res ∧ t.host.csdV = false := by
  obtain ⟨start, u, hu, hstart, hdriven₁, hcs₁⟩ := transmit_keeps_cs_run [Config.startToken] s
  have hcsd : u.host.csd = s.host.csd := congrArg ClientState.csd hstart.host
  obtain ⟨body, v, hv, hbody, hdriven₂, hcs₂⟩ := sendWithCrc_run (fun b => decode_encode (.exchange b))
    (fun c b => decode_encode (.crcExtend c b)) (fun c b => by rw [crc7_crcTableIndex]; simp) (u.host.csd.take 15) 0#7 u
    (hstart.crcTableValid.trans hvalid) fun i => (hstart.tableRead i).trans (htable i)
  have hselected : v.cs = true := hbody.cs.trans (hcs₂.trans (hcs₁.trans hcs))
  obtain ⟨tail, busy, res, t, ht, htail, hdriven₃, hbusy⟩ := transmitThenBusy_run
    [crcWireByte (crc7 (u.host.csd.take 15)), Config.fill, Config.fill] (fun h => { h with csdV := false }) hselected
  have hbefore : v.history = s.history ++ _ := (hstart.trans hbody).history
  have hafter : t.history = v.history ++ _ := htail.history
  have hhost : t.host = _ := htail.host
  refine ⟨start ++ body ++ tail, busy, res, t, ?_, ?_, ?_, hbusy, ?_⟩
  · simp only [writeCsd, hu, hv, andThen_next]
    exact ht
  · simp only [hafter, hbefore, List.append_assoc]
  · rw [drivenBytes_append, drivenBytes_append, hdriven₁, hdriven₂, hdriven₃, crcWireByte_eq, hcsd]
    rfl
  · rw [hhost]
    split <;> rfl

/-- The half of SetTemporaryLock after the CSD was read (R250). -/
theorem programCsd_run (locked : Bool) {s : State} {c : List Byte} (hcsd : s.host.csd = c) (hc : c.length = 16)
    (hvalid : s.crcTableValid = true) (htable : ∀ i : Byte, s.tableRead i = some ((crc7 [i]).setWidth 8)) :
    ∃ res t es write r,
      (andThen (cmd 0x5B#8 0#32 (s.onHost fun h => { h with csd := lockedCsd locked h.csd })) fun r =>
        if accepted r.1 then writeCsd r.2 else closeAndFail r.1 r.2) = .next (res, t) ∧
      PlainCommand 27#6 0#32 es r ∧ t.history = s.history ++ es ++ write ∧
      if r = 0x00#8 then
        ∃ (csd : List Byte) (sent busy : List LinkEvent),
          csd.length = 15 ∧ csd.take 14 = c.take 14 ∧
          csd.getD 14 0x00#8 = (if locked then c.getD 14 0x00#8 ||| 0x10#8 else c.getD 14 0x00#8 &&& 0xEF#8) ∧
          write = sent ++ busy ∧
          drivenBytes sent = [0xFE#8] ++ csd ++ [(crc7 csd).setWidth 8 <<< 1 ||| 1#8, 0xFF#8, 0xFF#8] ∧
          BusyTraffic busy res ∧ t.host.csdV = false
      else RejectedTraffic r write res := by
  refine guardedWrite_run (k := 0x5B#8) (by decide) (by decide) (s := s.onHost _) ?_
  intro u es hrun hcs
  have hlocked : u.host.csd = lockedCsd locked c := hcsd ▸ congrArg ClientState.csd hrun.host
  obtain ⟨sent, busy, res, t, ht, hhistory, hdriven, hbusy, hcsdV⟩ := writeCsd_run hcs
    (hrun.crcTableValid.trans hvalid) fun i => (hrun.tableRead i).trans (htable i)
  rw [hlocked] at hdriven
  refine ⟨_, res, t, ht, hhistory, (lockedCsd locked c).take 15, sent, busy, ?_, ?_, ?_, rfl, hdriven, hbusy, hcsdV⟩
  · simp [lockedCsd, hc]
  · rw [List.take_take]
    exact take_lockedCsd
  · rw [← getD_lockedCsd hc]
    simp

/-- Settles O57: the read's failure is the whole operation's, and after a read that ended `Ok` the CSD read is written back. -/
theorem temporaryLockSendsTheCrcOfTheModifiedCsd : Obligations.TemporaryLockSendsTheCrcOfTheModifiedCsd := by
  unfold Obligations.TemporaryLockSendsTheCrcOfTheModifiedCsd
  intro locked s hinv hvalid
  have htable : ∀ i : Byte, s.tableRead i = some ((crc7 [i]).setWidth 8) := by
    have htable := hinv.table.2
    rwa [if_pos hvalid] at htable
  obtain ⟨q, hread, hends⟩ := readRegister_run .csd s
  simp only [clientOp, setTemporaryLock, hread, andThen_next]
  cases hends with
  | @failed es r token d polls t hcommand hpolls htoken hrun =>
    refine ⟨_, t, es, _, r, token, polls, rfl, hcommand, hpolls, hrun.history.trans (by simp only [List.append_assoc]; rfl), ?_⟩
    rw [if_neg htoken]
    exact ⟨⟨d, rfl⟩, _, _, rfl⟩
  | @stored es r c₁ c₂ d polls c t hcommand hpolls hc hrun =>
    have hcsd : t.host.csd = c := congrArg ClientState.csd hrun.host
    obtain ⟨res, v, es₂₇, write, r₂₇, hv, hcommand₂₇, hwritten, hend⟩ := programCsd_run locked hcsd hc
      (hrun.crcTableValid.trans hvalid) fun i => (hrun.tableRead i).trans (htable i)
    have hhistory : t.history = s.history ++ _ := hrun.history
    refine ⟨res, v, es, _, r, 0xFE#8, polls, hv, hcommand, hpolls,
      hwritten.trans (by simp only [hhistory, List.append_assoc]; rfl), ?_⟩
    rw [if_pos rfl]
    exact ⟨c, c₁, c₂, d, es₂₇, write, r₂₇, hc, hcommand₂₇, by simp, hend⟩

end Sys2Proof.Machine
end

section
/-!
PROOFS. Host initialization, failures, the double attempt and the dispatcher (R240, R263 to R265).
-/
namespace Sys2Proof.Machine

/-! ### Host initialization (R240(a)) -/

/-- The response and the card type along the paths of INITIALIZE: NOT_DETECTED for an Unknown card, or OK with the code of the type. -/
theorem InitializePath.response {es : List LinkEvent} {y : ResponseWord} {k : CardType} (h : InitializePath es y k) :
    (y = responseWord .notDetected 0x00#8 ∧ k = .unknown) ∨ y = responseWord .ok k.value := by
  cases h with
  | notDetected _ _ => exact .inl ⟨by decide, rfl⟩
  | detected _ hpath =>
    refine .inr ?_
    cases hpath <;> decide

theorem answeredOk_ok (v : Byte) : answeredOk (responseWord .ok v) = true := beq_iff_eq.2 (statusField_responseWord .ok v)

theorem CardType.ofValue_value (k : CardType) : CardType.ofValue k.value = k := by cases k <;> decide

/-- Host initialization completes, and its two ends leave the same host: everything zeroed, the block's card type copied. -/
theorem hostInitialize_run (s : State) :
    ∃ res t, hostInitialize s = .next (res, t) ∧ t.host = { s.host.zeroAll with cardType := t.cardType } ∧
      (res = .ok ∨ (res = .fail .notDetected (.raw 0x00#8) ∧ t.cardType = .unknown)) := by
  obtain ⟨u, es, y, hexec, hrun, hpath⟩ := exec_initializeCard_path (s.onHost ClientState.zeroAll)
  have hhost : u.host = s.host.zeroAll := hrun.host
  have hissue : issue .initializeCard (s.onHost ClientState.zeroAll) = .next (y, (u.answer y).setSequencer .idle) := by
    simp [issue, request_legal (decode_encode _), hexec, State.lastResponse]
  simp only [hostInitialize, hissue, andThen_next]
  rcases hpath.response with ⟨rfl, hunknown⟩ | rfl
  · rw [if_neg (by decide), valueField_responseWord]
    refine ⟨_, _, rfl, ?_, .inr ⟨rfl, hunknown⟩⟩
    change ClientState.invalidate { u.host with cardType := .unknown } = { s.host.zeroAll with cardType := u.cardType }
    rw [hhost, hunknown]
    rfl
  · rw [if_pos (answeredOk_ok _), valueField_responseWord, CardType.ofValue_value]
    refine ⟨_, _, rfl, ?_, .inl rfl⟩
    change { u.host with cardType := u.cardType } = { s.host.zeroAll with cardType := u.cardType }
    rw [hhost]

/-- Settles O47: both ends of host initialization leave the zeroed host with the block's card type. -/
theorem hostInitializeZeroesTheImages : Obligations.HostInitializeZeroesTheImages := by
  unfold Obligations.HostInitializeZeroesTheImages
  intro s
  obtain ⟨res, t, ht, hhost, hres⟩ := hostInitialize_run s
  refine ⟨res, t, ht, ?_⟩
  rw [hhost]
  exact ⟨rfl, rfl, rfl, rfl, rfl, rfl, rfl, rfl, rfl, hres⟩

/-! ### Failure (R240(c)) -/

/-- A result that is a failure comes with no valid image. -/
def FailsInvalid (r : ClientResult × State) : Prop :=
  ∀ kind detail, r.1 = .fail kind detail →
    r.2.host.ocrV = false ∧ r.2.host.csdV = false ∧ r.2.host.cidV = false ∧ r.2.host.statV = false

section
variable {α : Type} (s : State)

/-- How a sequence ends is how its last part ends. -/
theorem Ensures.of_last {β : Type} {Q : β → Prop} {o : Host.Outcome α Fault Refusal}
    {f : α → Host.Outcome β Fault Refusal} (hf : ∀ a, Ensures (f a) Q) : Ensures (Machine.andThen o f) Q :=
  Ensures.andThen (P := fun _ => True) (fun _ _ => trivial) fun a _ => hf a

theorem succeed_failsInvalid : Ensures (succeed s) FailsInvalid := .next nofun

theorem failWith_failsInvalid (kind : ErrorKind) (detail : FailDetail) : Ensures (failWith kind detail s) FailsInvalid :=
  .next fun _ _ _ => ⟨rfl, rfl, rfl, rfl⟩

theorem closeAndFail_failsInvalid (y : ResponseWord) : Ensures (closeAndFail y s) FailsInvalid :=
  .of_last fun _ => failWith_failsInvalid _ _ _

theorem tokenFail_failsInvalid (y : ResponseWord) : Ensures (tokenFail y s) FailsInvalid := by
  unfold tokenFail
  split
  · exact failWith_failsInvalid _ _ _
  · refine .of_last fun d => ?_
    split <;> exact failWith_failsInvalid _ _ _

theorem hostInitialize_failsInvalid : Ensures (hostInitialize s) FailsInvalid := by
  refine .of_last fun r => ?_
  split
  · exact succeed_failsInvalid _
  · exact failWith_failsInvalid _ _ _

theorem readOcr_failsInvalid : Ensures (readOcr s) FailsInvalid := by
  refine .of_last fun r => ?_
  split
  · exact closeAndFail_failsInvalid _ _
  · exact .of_last fun _ => .of_last fun _ => succeed_failsInvalid _

theorem gatedRead_failsInvalid (k : Byte) (a : Word32) (n : Nat) (store : List Byte → ClientState → ClientState) :
    Ensures (gatedRead k a n store s) FailsInvalid := by
  refine .of_last fun r => .of_last fun t => ?_
  split
  · exact .of_last fun _ => .of_last fun _ => .of_last fun _ => succeed_failsInvalid _
  · exact .of_last fun _ => tokenFail_failsInvalid _ _

theorem readRegister_failsInvalid (which : TokenRegister) : Ensures (readRegister which s) FailsInvalid := by
  rw [readRegister_eq_gatedRead]
  exact gatedRead_failsInvalid _ _ _ _ _

theorem readBlock_failsInvalid (n : Word32) : Ensures (readBlock n s) FailsInvalid := by
  unfold readBlock
  split
  · rw [readBlockAt_eq_gatedRead]
    exact gatedRead_failsInvalid _ _ _ _ _
  · exact .refused _

theorem readCardStatus_failsInvalid : Ensures (readCardStatus s) FailsInvalid := by
  refine .of_last fun r => ?_
  split
  · exact .of_last fun _ => .of_last fun _ => succeed_failsInvalid _
  · exact .of_last fun _ => failWith_failsInvalid _ _ _

theorem busyPollAndClose_failsInvalid (after : ClientState → ClientState) :
    Ensures (busyPollAndClose after s) FailsInvalid := by
  refine .of_last fun r => .of_last fun t => ?_
  split
  · exact failWith_failsInvalid _ _ _
  · exact succeed_failsInvalid _

theorem setTemporaryLock_failsInvalid (locked : Bool) : Ensures (setTemporaryLock locked s) FailsInvalid := by
  refine (readRegister_failsInvalid s .csd).andThen fun read hread => ?_
  split
  · refine .of_last fun r => ?_
    split
    · exact .of_last fun _ => .of_last fun _ => .of_last fun _ => busyPollAndClose_failsInvalid _ _
    · exact closeAndFail_failsInvalid _ _
  · exact .next hread

theorem modifyPassword_failsInvalid (mask : Byte) : Ensures (modifyPassword mask s) FailsInvalid := by
  unfold modifyPassword modifyPasswordWith
  refine .of_last fun r => ?_
  split
  · exact .of_last fun _ => busyPollAndClose_failsInvalid _ _
  · exact closeAndFail_failsInvalid _ _

theorem forceErase_failsInvalid : Ensures (forceErase s) FailsInvalid := by
  refine .of_last fun _ => .of_last fun r => ?_
  split
  · exact .of_last fun _ => .of_last fun _ => succeed_failsInvalid _
  · exact closeAndFail_failsInvalid _ _

theorem attemptTwice_failsInvalid (op : State → ClientOutcome) (want : Bool) :
    Ensures (attemptTwice op want s) FailsInvalid := by
  refine .of_last fun first => ?_
  split
  · exact succeed_failsInvalid _
  · refine .of_last fun second => ?_
    split
    · exact succeed_failsInvalid _
    · exact failWith_failsInvalid _ _ _

theorem useImage_failsInvalid (which : Image) : Ensures (useImage which s) FailsInvalid := by
  unfold useImage
  split
  · exact .next nofun
  · exact .fault _

theorem queryLocked_failsInvalid : Ensures (queryLocked s) FailsInvalid := by
  unfold queryLocked
  split
  · exact .next nofun
  · exact .fault _

end

/-- Settles O53: each operation's failures are those of `failWith`. -/
theorem failureInvalidatesEveryImage : Obligations.FailureInvalidatesEveryImage := by
  unfold Obligations.FailureInvalidatesEveryImage
  intro op s t kind detail hfail
  have hop : Ensures (clientOp op s) FailsInvalid := by
    cases op with
    | hostInitialize => exact hostInitialize_failsInvalid s
    | readOcr => exact readOcr_failsInvalid s
    | readRegister which => exact readRegister_failsInvalid s which
    | readCardStatus => exact readCardStatus_failsInvalid s
    | readBlock n => exact readBlock_failsInvalid s n
    | setTemporaryLock locked => exact setTemporaryLock_failsInvalid s locked
    | modifyPassword mask => exact modifyPassword_failsInvalid s mask
    | forceErase => exact forceErase_failsInvalid s
    | attempt action => exact attemptTwice_failsInvalid s _ _
    | useImage which => exact useImage_failsInvalid s which
    | queryLocked => exact queryLocked_failsInvalid s
  exact hop _ hfail kind detail rfl

/-! ### The double attempt (R263) -/

/-- What an attempt takes as achieved: the status read ended `Ok` and shows the wanted lock state. -/
def showsLock (want : Bool) (st : ClientResult × State) : Bool :=
  decide (st.1 = .ok) && st.2.host.statV && (lockedFlag st.2.host.stat == want)

theorem showsLock_iff {want : Bool} {q : ClientResult} {t : State} :
    showsLock want (q, t) = true ↔ q = .ok ∧ t.host.statV = true ∧ (t.host.stat.getD 1 0#8).getLsbD 0 = want := by
  simp [showsLock, lockedFlag, and_assoc]

section
variable (action : LockAction) (s : State)

/-- The operation of an action completes from every state. -/
theorem LockAction.run_completes : ∃ r, action.run s = .next r := by
  have hpassword (mask : Byte) : ∃ r, modifyPassword mask s = .next r := by
    obtain ⟨res, t, _, _, _, ht, -⟩ := modifyPasswordDrivesTheWholePayload Config.defaultPasswordBytes
      Config.defaultPasswordLength mask s
    exact ⟨(res, t), ht⟩
  cases action with
  | lock | unlock => exact hpassword _
  | forceErase =>
    obtain ⟨res, t, _, _, _, _, _, ht, -⟩ := forceErase_run s
    exact ⟨(res, t), ht⟩

/-- One attempt completes: the operation and a status read, which alone decides. -/
theorem attemptOnce_run (want : Bool) :
    ∃ r q, action.run s = .next r ∧ readCardStatus r.2 = .next q ∧
      attemptOnce action.run want s = .next (showsLock want q, q.2) := by
  obtain ⟨r, hr⟩ := action.run_completes s
  obtain ⟨q, hq, -⟩ := readCardStatus_run r.2
  refine ⟨r, q, hr, hq, ?_⟩
  simp only [attemptOnce, hr, hq, andThen_next]
  rfl

end

/-- Settles O58: one attempt, and a second one exactly when the first is not achieved. -/
theorem doubleAttemptEndsAsTheStatusSays : Obligations.DoubleAttemptEndsAsTheStatusSays := by
  unfold Obligations.DoubleAttemptEndsAsTheStatusSays
  intro action s op achieved
  have hop : ∀ u, clientOp op u = action.run u := fun u => by cases action <;> rfl
  have hachieved : ∀ q u, achieved q u ↔ showsLock action.wantsLocked (q, u) = true := fun q u => by
    cases action <;> exact showsLock_iff.symm
  clear_value op achieved
  simp only [hop, hachieved]
  obtain ⟨⟨r₁, s₁⟩, ⟨q₁, t₁⟩, hr₁, hq₁, hfirst⟩ := attemptOnce_run action s action.wantsLocked
  obtain ⟨⟨r₂, s₂⟩, ⟨q₂, t₂⟩, hr₂, hq₂, hsecond⟩ := attemptOnce_run action t₁ action.wantsLocked
  simp only [clientOp, attemptTwice, hfirst, andThen_next]
  by_cases h₁ : showsLock action.wantsLocked (q₁, t₁) = true
  · rw [if_pos h₁]
    exact ⟨.ok, q₁, r₁, s₁, t₁, t₁, rfl, hr₁, hq₁, fun _ => ⟨rfl, rfl⟩, fun h => absurd h₁ h⟩
  · simp only [if_neg h₁, hsecond, andThen_next]
    by_cases h₂ : showsLock action.wantsLocked (q₂, t₂) = true
    · rw [if_pos h₂]
      exact ⟨.ok, q₁, r₁, s₁, t₁, t₂, rfl, hr₁, hq₁, fun h => absurd h h₁,
        fun _ => ⟨q₂, r₂, s₂, t₂, hr₂, hq₂, rfl, fun _ => rfl, fun h => absurd h₂ h⟩⟩
    · rw [if_neg h₂]
      exact ⟨_, q₁, r₁, s₁, t₁, _, rfl, hr₁, hq₁, fun h => absurd h h₁,
        fun _ => ⟨q₂, r₂, s₂, t₂, hr₂, hq₂, rfl, fun h => absurd h h₂, fun _ => rfl⟩⟩

/-! ### The dispatcher (R264, R265) -/

/-- The dispatcher after the host initialization, whose end is recorded already. -/
def dispatchAfter (action : UserAction) (init : ClientResult × State) : Host.Outcome State Fault Refusal :=
  match init.1 with
  | .ok =>
    andThen (runClient action.op init.2) fun r =>
      match action, r.1 with
      | .setTemporaryLock locked, .ok => confirmLock locked r.2
      | _, _ => reportResult r
  | _ => reportResult init

/-- The host records how a client operation ended (entry 2). -/
def ClientState.addOutcome (h : ClientState) (r : ClientResult) : ClientState := { h with outcomes := h.outcomes ++ [r] }

theorem dispatch_eq_dispatchAfter {action : UserAction} {s t : State} {res : ClientResult}
    (h : clientOp .hostInitialize s = .next (res, t)) :
    dispatch action s = dispatchAfter action (res, t.onHost (·.addOutcome res)) := by
  simp only [dispatch, runClient, h, andThen_next]
  rfl

theorem Kept.dispatchAfter {P : State → Prop} (hP : Kept P) (action : UserAction) {init : ClientResult × State}
    (hinit : P init.2) : Ensures (dispatchAfter action init) P := by
  unfold Machine.dispatchAfter
  split
  · refine (hP.runClient _ hinit).andThen fun r hr => ?_
    split
    · exact hP.confirmLock _ hr
    · exact hP.reportResult hr
  · exact hP.reportResult hinit

/-- Settles O59: what follows the initialization takes no event back, and after a failed one the dispatcher only reports. -/
theorem dispatcherInitializesFirst : Obligations.DispatcherInitializesFirst := by
  unfold Obligations.DispatcherInitializesFirst
  intro action s
  obtain ⟨res, t, ht, -, hres⟩ := hostInitialize_run s
  refine ⟨(res, t), ht, fun u hu => ?_, fun kind detail hfail => ?_⟩
  · rw [dispatch_eq_dispatchAfter ht] at hu
    have hgrows := (kept_grows t).dispatchAfter action (init := (res, t.onHost (·.addOutcome res))) ((Grows.refl t).setHost _)
    exact (hgrows u hu).1
  · rcases hres with rfl | ⟨rfl, -⟩
    · cases hfail
    · exact ⟨_, dispatch_eq_dispatchAfter ht, rfl, rfl⟩

end Sys2Proof.Machine
end

section
/-!
PROOFS. What stands in the place of exceptions (R280 to R285): that every instruction completes, and the statuses it can answer with.
-/
namespace Sys2Proof.Machine

/-! ### Every instruction completes (R285) -/

/-- Between operations a table marked valid holds every entry (R27, R122). -/
theorem State.Inv.tableRead {s : State} (h : s.Inv) (hvalid : s.crcTableValid = true) (i : Byte) :
    s.tableRead i = some ((crc7 [i]).setWidth 8) := by
  obtain ⟨-, htable⟩ := h.table
  rw [if_pos hvalid] at htable
  exact htable i

/-- Only CRC_EXTEND reads state that may hold no value, and it completes when the table marked valid holds the entry (R123, R285). -/
theorem exec_crcExtend_completes {s : State} (h : s.Inv) (c : Crc7) (b : Byte) : ∃ t, exec (.crcExtend c b) s = .next t := by
  obtain ⟨hnotReady, -, -⟩ := crcExtendLooksTheTableUp c b s
  cases hvalid : s.crcTableValid with
  | false => exact ⟨_, hnotReady hvalid⟩
  | true => exact ⟨_, exec_crcExtend_of_read hvalid (h.tableRead hvalid _)⟩

/-- Settles O17: every meaning but CRC_EXTEND's is a next state outright, and the invariant gives CRC_EXTEND the entry it reads. -/
theorem noInstructionFaultsOrIsRefused : Obligations.NoInstructionFaultsOrIsRefused := by
  unfold Obligations.NoInstructionFaultsOrIsRefused
  intro i s h
  cases i with
  | crcExtend c b => exact exec_crcExtend_completes h c b
  | exchange | select | deselect | crcBuild | sendCommand | waitToken | decodeErrorToken | initializeCard | status
  | goIdleState | sdSendOpCondLegacy | sendIfCond | sendCsd | sendCid | sendStatus | setBlocklen
  | readSingleBlock | programCsd | lockUnlock | appCmd | readOcr | sdSendOpCond => exact ⟨_, rfl⟩

/-! ### The status and the value of an answer (R281) -/

/-- From `s` to `t` one response was appended, with a status and a value that `P` allows. -/
def Answers (s t : State) (P : Status → Byte → Prop) : Prop :=
  ∃ st v, t.responses = s.responses ++ [responseWord st v] ∧ P st v

section
variable {s t u : State} {P Q : Status → Byte → Prop}

/-- A meaning that responds at its end, its work having answered nothing, answers with that status and value. -/
theorem answers_of_respond {st : Status} {v : Byte} (hu : u.responses = s.responses)
    (h : (.next (respond st v u) : Host.Outcome State Fault Refusal) = .next t) (hP : P st v) : Answers s t P := by
  obtain rfl := Host.Outcome.next.inj h
  exact ⟨st, v, congrArg (· ++ [responseWord st v]) hu, hP⟩

theorem Answers.imp (h : Answers s t P) (hPQ : ∀ st v, P st v → Q st v) : Answers s t Q := by
  obtain ⟨st, v, hresponses, hP⟩ := h
  exact ⟨st, v, hresponses, hPQ st v hP⟩

/-! ### SEND_COMMAND -/

/-- A command's own poll is answered OK with a response byte, or TIMEOUT without one (R145). -/
def PolledAnswer (st : Status) (v : Byte) : Prop :=
  (st = .ok ∧ v.toNat < 0x80) ∨ (st = .timeout ∧ 0x80 ≤ v.toNat)

/-- APP_CMD's response ends an ACMD with PROTOCOL_ERROR when it is a response greater than 1 (R141). -/
def StoppedAnswer (st : Status) (v : Byte) : Prop := st = .protocolError ∧ 0x02 ≤ v.toNat ∧ v.toNat < 0x80

theorem polledAnswer_of_eq {st : Status} {v : Byte} (h : st = if 0x80 ≤ v.toNat then .timeout else .ok) :
    PolledAnswer st v := by
  split at h
  · next hv => exact .inr ⟨h, hv⟩
  · next hv => exact .inl ⟨h, Nat.lt_of_not_le hv⟩

/-- SEND_COMMAND answers for the poll of the command or of APP_CMD, or, for an ACMD, that APP_CMD stopped it. -/
theorem CommandTraffic.answer {c : Byte} {a : Word32} {es : List LinkEvent} {st : Status} {v : Byte}
    (h : CommandTraffic c a es st v) : PolledAnswer st v ∨ (0x80 ≤ c.toNat ∧ StoppedAnswer st v) := by
  unfold CommandTraffic at h
  split at h
  · obtain ⟨-, hst⟩ := h
    exact .inl (polledAnswer_of_eq hst)
  · next hc =>
    obtain ⟨es₅₅, r₅₅, -, hrest⟩ := h
    split at hrest
    · next hstop =>
      obtain ⟨-, rfl, hst⟩ := hrest
      split at hst
      · next hv => exact .inl (.inr ⟨hst, hv⟩)
      · next hv => exact .inr ⟨Nat.le_of_not_lt hc, hst, hstop, Nat.lt_of_not_le hv⟩
    · obtain ⟨es', -, -, hst⟩ := hrest
      exact .inl (polledAnswer_of_eq hst)

theorem execSendCommand_answers {c : Byte} {a : Word32} (h : execSendCommand c a s = .next t) :
    Answers s t fun st v => PolledAnswer st v ∨ (0x80 ≤ c.toNat ∧ StoppedAnswer st v) := by
  obtain ⟨es, hrun, htraffic⟩ := sendCommand_run c a s
  exact answers_of_respond hrun.responses h htraffic.answer

/-- A command without the ACMD flag has no prefix that could stop it. -/
theorem execSendCommand_plain_answers {c : Byte} (hc : c.toNat < 0x80) {a : Word32} (h : execSendCommand c a s = .next t) :
    Answers s t PolledAnswer :=
  (execSendCommand_answers h).imp fun _ _ hanswer => hanswer.resolve_right fun hacmd => Nat.not_le.2 hc hacmd.1

/-! ### The other instructions that answer with more than OK -/

theorem exec_crcExtend_answers {c : Crc7} {b : Byte} (h : exec (.crcExtend c b) s = .next t) :
    Answers s t fun st v => st = .ok ∨ (st = .crcNotReady ∧ v = 0x00#8) := by
  simp only [exec, execCrcExtend] at h
  split at h
  · split at h
    · exact answers_of_respond rfl h (.inl rfl)
    · cases h
  · exact answers_of_respond rfl h (.inr ⟨rfl, rfl⟩)

/-- WAIT_TOKEN answers TIMEOUT exactly for 0xFF (R190). -/
theorem exec_waitToken_answers (h : exec .waitToken s = .next t) :
    Answers s t fun st v => (st = .ok ∧ v ≠ 0xFF#8) ∨ (st = .timeout ∧ v = 0xFF#8) := by
  obtain ⟨_, v, _, hexec, -, hrun⟩ := waitTokenPollsForAToken s
  rw [← responseWord_token] at hexec
  refine answers_of_respond hrun.responses (hexec.symm.trans h) ?_
  split
  · next htoken => exact .inr ⟨rfl, htoken⟩
  · next htoken => exact .inl ⟨rfl, htoken⟩

theorem exec_decodeErrorToken_answers {k : Byte} (h : exec (.decodeErrorToken k) s = .next t) :
    Answers s t fun st v => (st = .ok ∧ v = 0x00#8) ∨ st = .dataError := by
  simp only [exec, execDecodeErrorToken] at h
  split at h
  · exact answers_of_respond rfl h (.inr rfl)
  · exact answers_of_respond rfl h (.inl ⟨rfl, rfl⟩)

theorem CardType.toNat_value_le (k : CardType) : k.value.toNat ≤ 2 := by cases k <;> decide

theorem exec_initializeCard_answers (h : exec .initializeCard s = .next t) :
    Answers s t fun st v => (st = .ok ∧ v.toNat ≤ 2) ∨ (st = .notDetected ∧ v = 0x00#8) := by
  obtain ⟨es, y, -, hresponses, hpath⟩ := initializePath_of_exec h
  rcases hpath.response with ⟨rfl, -⟩ | rfl
  · exact ⟨_, _, hresponses, .inr ⟨rfl, rfl⟩⟩
  · exact ⟨_, _, hresponses, .inl ⟨rfl, t.cardType.toNat_value_le⟩⟩

theorem exec_crcBuild_answers (h : exec .crcBuild s = .next t) : Answers s t fun st _ => st = .ok := by
  obtain ⟨m, hm, -, -⟩ := buildTable_spec s
  simp only [exec, execCrcBuild, hm] at h
  exact answers_of_respond (u := (s.setCrcTable m).setCrcTableValid true) rfl h rfl

end

/-- Settles O18, instruction by instruction: each answers once, with what its meaning responds. -/
theorem statusesOfEachInstruction : Obligations.StatusesOfEachInstruction := by
  unfold Obligations.StatusesOfEachInstruction
  intro i s t h
  cases i with
  | exchange b => exact answers_of_respond (exchange_run b s).responses h rfl
  | select => exact answers_of_respond (select_run s).responses h rfl
  | deselect => exact answers_of_respond (deselect_run s).responses h rfl
  | status => exact answers_of_respond rfl h rfl
  | crcBuild => exact exec_crcBuild_answers h
  | crcExtend => exact exec_crcExtend_answers h
  | waitToken => exact exec_waitToken_answers h
  | decodeErrorToken => exact exec_decodeErrorToken_answers h
  | initializeCard => exact exec_initializeCard_answers h
  | sendCommand c a =>
    refine (execSendCommand_answers h).imp fun _ _ hanswer => ?_
    rcases hanswer with (hok | htimeout) | ⟨hacmd, hst, hv⟩
    · exact .inl hok
    · exact .inr (.inl htimeout)
    · exact .inr (.inr ⟨hst, hacmd, hv⟩)
  | sdSendOpCond =>
    refine (execSendCommand_answers (c := 0xE9#8) h).imp fun _ _ hanswer => ?_
    rcases hanswer with (hok | htimeout) | ⟨-, hstopped⟩
    · exact .inl hok
    · exact .inr (.inl htimeout)
    · exact .inr (.inr hstopped)
  | goIdleState | sdSendOpCondLegacy | sendIfCond | sendCsd | sendCid | sendStatus | setBlocklen | readSingleBlock
  | programCsd | lockUnlock | appCmd | readOcr => exact execSendCommand_plain_answers (by decide) h

end Sys2Proof.Machine
end

section
/-!
PROOFS. The block waits while the host's stream is empty (R310).
-/
namespace Sys2Proof.Machine

/-- Settles O9: an idle step over an empty stream is the waiting step. -/
theorem blockWaitsWithNothingToAccept : Obligations.BlockWaitsWithNothingToAccept := by
  unfold Obligations.BlockWaitsWithNothingToAccept
  intro s hidle hwork
  exact step_nil hidle hwork

end Sys2Proof.Machine
end
